-- ==== Sys2Proof/Word.lean ====
section
/-! DEFINITION. The two word types of the block: a byte (a field element, 00_scope.md R9) and the
32-bit word of the host port (20_memory.md R60). Bit 0 is the least significant bit (R6). -/

namespace Sys2Proof

/-- A codeword, that is an element of GF(256): 8 bits (40_gf_field.md R110). -/
abbrev Byte := BitVec 8

/-- A word of the host port (20_memory.md R60). -/
abbrev Word := BitVec 32

end Sys2Proof
end

