-- ==== Sys2Proof/Config.lean ====
section
/-! DEFINITION. What this hardware fixes (00_scope.md R5) and what it leaves open. The open values are
constants without a body: nothing can be proved of the value they have. -/

namespace Sys2Proof.Config

/-- The bit pattern of the field polynomial x^8 + x^4 + x^3 + x^2 + 1 (00_scope.md R5, 40_gf_field.md R110). -/
def fieldPoly : BitVec 16 := 0x11D#16

/-- E_MAX, the largest generator degree accepted (00_scope.md R5). -/
def eMax : Nat := 30

/-- BUF_SIZE, the bytes of the working buffer and the largest length accepted (00_scope.md R5). -/
def bufSize : Nat := 256

/-- The bytes of REM (00_scope.md R5). -/
def remSize : Nat := 30

/-- The bytes of GEN, the hardwired GEN[0] among them (00_scope.md R5). -/
def genSize : Nat := 31

/-- The value of the ID register (00_scope.md R5, 10_state.md R21). -/
def idValue : Word := 0x5253011D#32

/-- The bytes of the port's window in the host's address map (00_scope.md R5, 20_memory.md R62). -/
def windowSize : Nat := 0x1000

/-- OPEN parameter BASE: where the window sits in the host's address map (00_scope.md R5, D3; log 14). -/
opaque base : Nat

/-- The free values (log 2): the n-th byte the spec does not fix. It stands for what a read of an unwritten
byte yields and for what a command writes when it reads one (10_state.md R43, 41_rs_poly.md R140, U1). -/
opaque freeByte : Nat → Byte

end Sys2Proof.Config
end

