-- ==== Sys2Proof/Syntax.lean ====
section
/-! DEFINITION. The commands of the block, the locations of its address map, the transactions of its port
and the inputs that reach it from outside. -/

namespace Sys2Proof

/-- The ten commands of 30_encoding.md R92. A command word carries no operand (R94). -/
inductive Instr where
  | nop
  | gfMul
  | gfExp
  | gfLog
  | gfInv
  | genPoly
  | rsEncode
  | polyMod
  | polyMul
  | syndrome
  deriving DecidableEq, Repr

/-- What an offset of the port names (20_memory.md R62): a register, a byte of a RAM by its index, or nothing. -/
inductive Loc where
  | id
  | ctrl
  | status
  | cmd
  | argA
  | argB
  | result
  | dlen
  | elen
  | buf (i : Nat)
  | gen (k : Nat)
  | rem (j : Nat)
  | unmapped (off : Nat)
  deriving DecidableEq, Repr

/-- A call of the host on the port: `MemRead(addr, n)` or `MemWrite(addr, n, v)` (00_scope.md R7,
20_memory.md R60, R61). Whether it spells a transaction is `Transaction.wf`. -/
inductive Transaction where
  | read (addr n : Nat)
  | write (addr n : Nat) (v : Word)
  deriving DecidableEq, Repr

/-- What happens next (60_exceptions.md R190): a host transaction, a slot in which the engine may complete its
pending command (20_memory.md R72), or the hardware reset (70_reset_and_hazards.md R210). Log 1, 13. -/
inductive Input where
  | host (t : Transaction)
  | engine
  | rst
  deriving DecidableEq, Repr

end Sys2Proof
end

