-- ==== Sys2Proof/Decode.lean ====
section
/-! DEFINITION. The command word (30_encoding.md R90 to R93, R97): the decoder, total on every 32-bit word and
rejecting by name, then the encoder written from the opcode map. -/

namespace Sys2Proof

/-- Why a command word is no command. Both reasons are the error ILLEGAL_CMD (60_exceptions.md R181). -/
inductive IllegalWord where
  /-- Bits 31:4 are not all 0 (30_encoding.md R91). -/
  | reservedBits
  /-- The opcode is one of 0xA to 0xF (30_encoding.md R93). -/
  | reservedOpcode
  deriving DecidableEq, Repr

/-- The answer of the decoder. -/
inductive Decoded where
  | cmd (i : Instr)
  | illegal (why : IllegalWord)
  deriving DecidableEq, Repr

/-- The opcode field OP, bits 3:0 (30_encoding.md R90). -/
def opField (cw : Word) : BitVec 4 := cw.extractLsb' 0 4

/-- The reserved field RSV, bits 31:4 (30_encoding.md R90). -/
def rsvField (cw : Word) : BitVec 28 := cw.extractLsb' 4 28

/-- The command an opcode names (30_encoding.md R92); 0xA to 0xF name none (R93). -/
def decodeOp (op : BitVec 4) : Option Instr :=
  if op = 0x0#4 then some .nop
  else if op = 0x1#4 then some .gfMul
  else if op = 0x2#4 then some .gfExp
  else if op = 0x3#4 then some .gfLog
  else if op = 0x4#4 then some .gfInv
  else if op = 0x5#4 then some .genPoly
  else if op = 0x6#4 then some .rsEncode
  else if op = 0x7#4 then some .polyMod
  else if op = 0x8#4 then some .polyMul
  else if op = 0x9#4 then some .syndrome
  else none

/-- The decoder of 30_encoding.md R97. -/
def decode (cw : Word) : Decoded :=
  if rsvField cw ≠ 0#28 then .illegal .reservedBits
  else match decodeOp (opField cw) with
    | some i => .cmd i
    | none => .illegal .reservedOpcode

/-- The opcode of a command (30_encoding.md R92). -/
def opcode : Instr → BitVec 4
  | .nop => 0x0#4
  | .gfMul => 0x1#4
  | .gfExp => 0x2#4
  | .gfLog => 0x3#4
  | .gfInv => 0x4#4
  | .genPoly => 0x5#4
  | .rsEncode => 0x6#4
  | .polyMod => 0x7#4
  | .polyMul => 0x8#4
  | .syndrome => 0x9#4

/-- The word of a command, `CW = zext_32(OP)` (30_encoding.md R92). -/
def encode (i : Instr) : Word := (opcode i).setWidth 32

/-- The command the decoder reads from the instruction whose bits are `w`, numbered as spec/opcode_table.json
numbers them. A command word is one 32-bit word (30_encoding.md R90), so a longer instruction is none; a shorter one is taken with its
upper bits 0 (log 8). -/
def decodeTableWord (nbits w : Nat) : Option Instr :=
  if nbits ≤ 32 then
    match decode (BitVec.ofNat 32 (w % 2 ^ nbits)) with
    | .cmd i => some i
    | .illegal _ => none
  else none

end Sys2Proof
end

