-- ==== Sys2Proof/Machine/AddressMap.lean ====
section
/-! DEFINITION. The address map of the port (20_memory.md R62): which location an offset names, the offset of each
location, and which locations are blocked while a command executes (R79). -/

namespace Sys2Proof.Machine

/-- The offset of BUF[0] (20_memory.md R62). -/
def bufBase : Nat := 0x400
/-- The offset of GEN[0] (20_memory.md R62). -/
def genBase : Nat := 0x800
/-- The offset of REM[0] (20_memory.md R62). -/
def remBase : Nat := 0xC00

/-- The offset of BUF[i]. -/
def bufAddr (i : Nat) : Nat := bufBase + 4 * i
/-- The offset of GEN[k]. -/
def genAddr (k : Nat) : Nat := genBase + 4 * k
/-- The offset of REM[j]. -/
def remAddr (j : Nat) : Nat := remBase + 4 * j

/-- What a word offset names (20_memory.md R62). -/
def locOf (off : Nat) : Loc :=
  if off = 0x000 then .id
  else if off = 0x004 then .ctrl
  else if off = 0x008 then .status
  else if off = 0x00C then .cmd
  else if off = 0x010 then .argA
  else if off = 0x014 then .argB
  else if off = 0x018 then .result
  else if off = 0x01C then .dlen
  else if off = 0x020 then .elen
  else if 0x400 ≤ off ∧ off ≤ 0x7FC then .buf ((off - bufBase) / 4)
  else if 0x800 ≤ off ∧ off ≤ 0x878 then .gen ((off - genBase) / 4)
  else if 0xC00 ≤ off ∧ off ≤ 0xC74 then .rem ((off - remBase) / 4)
  else .unmapped off

/-- The offset of a location (20_memory.md R62; the `off` of 30_encoding.md R95). -/
def offsetOf : Loc → Nat
  | .id => 0x000
  | .ctrl => 0x004
  | .status => 0x008
  | .cmd => 0x00C
  | .argA => 0x010
  | .argB => 0x014
  | .result => 0x018
  | .dlen => 0x01C
  | .elen => 0x020
  | .buf i => bufAddr i
  | .gen k => genAddr k
  | .rem j => remAddr j
  | .unmapped off => off

/-- The locations whose reads and writes are blocked while BUSY = 1 (the `blocked` of 20_memory.md R79). -/
def blocked : Loc → Bool
  | .argA | .argB | .result | .dlen | .elen | .buf _ | .gen _ | .rem _ => true
  | .id | .ctrl | .status | .cmd | .unmapped _ => false

/-- An offset that holds a RAM byte that can be written or unwritten: BUF, GEN[1..30], REM (10_state.md R43). -/
def isRamOffset (off : Nat) : Bool :=
  off % 4 == 0 && (decide (0x400 ≤ off ∧ off ≤ 0x7FC) || decide (0x804 ≤ off ∧ off ≤ 0x878)
    || decide (0xC00 ≤ off ∧ off ≤ 0xC74))

/-- The host's address of an offset: every offset is relative to BASE (20_memory.md R62; log 14). -/
def hostAddress (off : Nat) : Nat := Config.base + off

/-- The offset of a host address that lies in the block's window, nothing for another address (log 14). -/
def portOffset (a : Nat) : Option Nat :=
  if Config.base ≤ a ∧ a < Config.base + Config.windowSize then some (a - Config.base) else none

end Sys2Proof.Machine
end

