-- ==== Sys2Proof/Machine/State.lean ====
section
/-! DEFINITION. The state of the machine as plain data (10_state.md R20), the reasons a step can stop, and the
state after a hardware reset (10_state.md R44). -/

namespace Sys2Proof.Machine

/-- The RAM bytes that are written, by port offset: BUF[i] at 0x400 + 4i, GEN[k] for k ≥ 1 at 0x800 + 4k, REM[j]
at 0xC00 + 4j (20_memory.md R62, R64). An offset that is not listed is unwritten (10_state.md R43; log 22). -/
abbrev Memory := List Host.Cell

/-- The fields of STATUS that hold a value (10_state.md R23); its other bits read 0. -/
structure Status where
  busy : Bool
  done : Bool
  err : Bool
  accerr : Bool
  ecode : BitVec 4
  deriving DecidableEq, Repr

/-- The hidden state of the engine (10_state.md R39). -/
structure Pend where
  valid : Bool
  op : BitVec 4
  deriving DecidableEq, Repr

/-- The command error codes (60_exceptions.md R181). -/
inductive ErrCode where
  | none
  | illegalCmd
  | logZero
  | invZero
  | badElen
  | badLen
  deriving DecidableEq, Repr

/-- Everything the spec gives the machine, and three fields of the model's own (`rdata`, `inputs`, `fresh`). The
hardwired ID and GEN[0] and the constant tables EXP and LOG are no fields (log 17). -/
structure State where
  /-- CTRL.IE (10_state.md R22). -/
  ctrlIE : Bool
  /-- STATUS (10_state.md R23). -/
  status : Status
  /-- CMD_LAST, what a read of CMD returns (10_state.md R28). -/
  cmdLast : Word
  /-- ARG_A[7:0] (10_state.md R29). -/
  argA : Byte
  /-- ARG_B[7:0] (10_state.md R30). -/
  argB : Byte
  /-- RESULT[7:0] (10_state.md R31). -/
  result : Byte
  /-- DLEN[8:0] (10_state.md R32). -/
  dlen : BitVec 9
  /-- ELEN[4:0] (10_state.md R33). -/
  elen : BitVec 5
  /-- The written bytes of BUF, GEN[1..30] and REM (10_state.md R35 to R37, R43). -/
  mem : Memory
  /-- The pending command (10_state.md R39). -/
  pend : Pend
  /-- The model's own: the read data that the last step put on the port, if it was a read (20_memory.md R60; log 5). -/
  rdata : Option Word
  /-- The model's own: what the outside does next, oldest first (log 1). -/
  inputs : List Input
  /-- The model's own: how many free values have been taken (log 2, 3). -/
  fresh : Nat
  deriving DecidableEq, Repr

/-- Why the machine stops with a fault. -/
inductive Fault where
  /-- Raised by an engine slot when PEND.valid = 1 and PEND.op is one of the reserved opcodes 0xA to 0xF. The issue
  checks accept no such opcode (60_exceptions.md R183), so no run reaches it. Safe (log 10). -/
  | reservedOpcodePending
  deriving DecidableEq, Repr

/-- Why a step has no meaning. -/
inductive Refusal where
  /-- A command whose meaning is not written yet; none is left. Safe. -/
  | notModelled (mnemonic : String)
  /-- Raised by a host call that spells no transaction of the port: its size is not 4, its address is not a word
  address or lies at or above 0x1000 (20_memory.md R61: refused by the model). Safe (log 12). -/
  | noTransaction
  deriving DecidableEq, Repr

/-- STATUS = 0x00000000 (10_state.md R44). -/
def Status.clear : Status :=
  { busy := false, done := false, err := false, accerr := false, ecode := 0#4 }

/-- The machine right after a hardware reset (10_state.md R44, 70_reset_and_hazards.md R211). PEND.op (log 6),
`rdata` (log 5), `inputs` (log 1) and `fresh` (log 3) are the model's choices. -/
def State.reset : State :=
  { ctrlIE := false
    status := Status.clear
    cmdLast := 0#32
    argA := 0#8
    argB := 0#8
    result := 0#8
    dlen := 0#9
    elen := 0#5
    mem := []
    pend := { valid := false, op := 0#4 }
    rdata := none
    inputs := []
    fresh := 0 }

end Sys2Proof.Machine
end

