-- ==== Sys2Proof/Machine/Flags.lean ====
section
/-! DEFINITION. The status flags (10_state.md R23 to R27, R42): STATUS and CTRL as words, the write-one-to-clear
rule, the setting of ACCERR, the error codes and the interrupt output. No flag depends on a computed value (R42). -/

namespace Sys2Proof.Machine

/-- STATUS as the host reads it (10_state.md R23): {0, ECODE, 0, ACCERR, ERR, DONE, BUSY}, reserved bits 0 (R34). -/
def Status.word (t : Status) : Word :=
  0#20 ++ t.ecode ++ 0#4 ++ BitVec.ofBool t.accerr ++ BitVec.ofBool t.err ++ BitVec.ofBool t.done
    ++ BitVec.ofBool t.busy

/-- A host write of `v` to STATUS (10_state.md R23): bits 1, 2 and 3 are write-one-to-clear, and ECODE is cleared
with ERR. -/
def Status.clearBits (v : Word) (t : Status) : Status :=
  { t with
    done := t.done && !v.getLsbD 1
    err := t.err && !v.getLsbD 2
    ecode := if v.getLsbD 2 then 0#4 else t.ecode
    accerr := t.accerr && !v.getLsbD 3 }

/-- CTRL as the host reads it: IE in bit 0, SRST and the reserved bits read 0 (10_state.md R22). -/
def ctrlWord (ie : Bool) : Word := (BitVec.ofBool ie).setWidth 32

/-- An access error: STATUS.ACCERR <- 1 and nothing else (10_state.md R27, 60_exceptions.md R187). -/
def accessError (s : State) : State := { s with status := { s.status with accerr := true } }

/-- The value of STATUS.ECODE for an error (60_exceptions.md R181). -/
def ErrCode.code : ErrCode → BitVec 4
  | .none => 0#4
  | .illegalCmd => 1#4
  | .logZero => 2#4
  | .invZero => 3#4
  | .badElen => 4#4
  | .badLen => 5#4

/-- The interrupt output (60_exceptions.md R188). -/
def irq (s : State) : Bool := s.ctrlIE && (s.status.done || s.status.err)

end Sys2Proof.Machine
end

