-- ==== Sys2Proof/Machine/Ops.lean ====
section
/-! DEFINITION. The shared operations: the written bytes of the RAMs, free values, the issue of a command with its
checks, rejection (the block's only error entry: it has no traps, 60_exceptions.md R180), acceptance, completion,
and the two resets. -/

namespace Sys2Proof.Machine

/-! ### The RAM bytes -/

/-- The byte at a port offset, nothing if it is unwritten (10_state.md R43). -/
def Memory.read : Memory → Nat → Option Byte
  | [], _ => none
  | (k, b) :: m, a => if k = a then some b else Memory.read m a

/-- Write the byte at a port offset; the list stays in rising order. -/
def Memory.write : Memory → Nat → Byte → Memory
  | [], a, v => [(a, v)]
  | (k, b) :: m, a, v =>
    if a < k then (a, v) :: (k, b) :: m
    else if a = k then (a, v) :: m
    else (k, b) :: Memory.write m a v

/-- Make the byte at a port offset unwritten. -/
def Memory.erase (m : Memory) (a : Nat) : Memory := m.filter fun c => c.1 != a

/-- The canonical form: offsets strictly rising. An unlisted offset reads as no value, so no entry equals what an
unlisted offset reads as. -/
abbrev Memory.wf (m : Memory) : Prop := m.Pairwise fun c d => c.1 < d.1

/-- Write bytes to consecutive words from `base` on: one byte a word (20_memory.md R64). -/
def Memory.writeBytes : Memory → Nat → List Byte → Memory
  | m, _, [] => m
  | m, base, b :: bs => Memory.writeBytes (Memory.write m base b) (base + 4) bs

/-- Make `n` bytes in consecutive words from `base` on unwritten. -/
def Memory.eraseBytes : Memory → Nat → Nat → Memory
  | m, _, 0 => m
  | m, base, n + 1 => Memory.eraseBytes (Memory.erase m base) (base + 4) n

/-- The `n` bytes in consecutive words from `base` on, nothing if one of them is unwritten. -/
def Memory.readBytes (m : Memory) : Nat → Nat → Option (List Byte)
  | _, 0 => some []
  | base, n + 1 =>
    match m.read base, Memory.readBytes m (base + 4) n with
    | some b, some bs => some (b :: bs)
    | _, _ => none

/-! ### Free values (log 2, 3) -/

/-- The next `n` free bytes. -/
def freeBytes (next n : Nat) : List Byte := (List.range n).map fun k => Config.freeByte (next + k)

/-- Write a command's result to consecutive words from `base` on. Where the command read an unwritten byte there is no
result, and the `n` bytes it writes are free (41_rs_poly.md R140, 10_state.md R43; log 2, 4). -/
def storeBytes (base n : Nat) (r : Option (List Byte)) (s : State) : State :=
  match r with
  | some bs => { s with mem := s.mem.writeBytes base bs }
  | none => { s with mem := s.mem.writeBytes base (freeBytes s.fresh n), fresh := s.fresh + n }

/-- Write RESULT[7:0] (40_gf_field.md R125). Where there is no value it is free; no run reaches this (log 11). -/
def storeResult (r : Option Byte) (s : State) : State :=
  match r with
  | some b => { s with result := b }
  | none => { s with result := Config.freeByte s.fresh, fresh := s.fresh + 1 }

/-- Put a RAM byte read by the host on the port, zero-extended (20_memory.md R64); the value of an unwritten byte
is free (10_state.md R43; log 2). -/
def showByte (r : Option Byte) (s : State) : State :=
  match r with
  | some b => { s with rdata := some (b.setWidth 32) }
  | none => { s with rdata := some ((Config.freeByte s.fresh).setWidth 32), fresh := s.fresh + 1 }

/-! ### Issue and completion -/

/-- The issue checks of a command, in their order (60_exceptions.md R183, after the ILLEGAL_CMD line). -/
def check (i : Instr) (s : State) : ErrCode :=
  match i with
  | .nop | .gfMul | .gfExp => .none
  | .gfLog => if s.argA = 0#8 then .logZero else .none
  | .gfInv => if s.argA = 0#8 then .invZero else .none
  | .genPoly => if s.elen.toNat = 0 ∨ Config.eMax < s.elen.toNat then .badElen else .none
  | .rsEncode | .polyMod | .syndrome =>
    if s.elen.toNat = 0 ∨ Config.eMax < s.elen.toNat then .badElen
    else if Config.bufSize < s.dlen.toNat then .badLen else .none
  | .polyMul =>
    if s.elen.toNat = 0 ∨ Config.eMax < s.elen.toNat then .badElen
    else if Config.bufSize < s.dlen.toNat + s.elen.toNat then .badLen else .none

/-- The first two lines of an issue while idle (60_exceptions.md R182): CMD_LAST takes the word; DONE, ERR and ECODE
are cleared. ACCERR is kept. -/
def beginIssue (cw : Word) (s : State) : State :=
  { s with cmdLast := cw, status := { s.status with done := false, err := false, ecode := 0#4 } }

/-- A command error: STATUS.ERR <- 1 and STATUS.ECODE <- the code (60_exceptions.md R182, R184). -/
def raiseError (e : ErrCode) (s : State) : State :=
  { s with status := { s.status with err := true, ecode := e.code } }

/-- Acceptance: PEND and BUSY (60_exceptions.md R182, R185). -/
def accept (i : Instr) (s : State) : State :=
  { s with pend := { valid := true, op := opcode i }, status := { s.status with busy := true } }

/-- The issue of a word that is no command, while idle (60_exceptions.md R182, R183 first line). -/
def issueIllegal (cw : Word) (s : State) : State := raiseError .illegalCmd (beginIssue cw s)

/-- The issue of a command while idle (60_exceptions.md R182). Its word is the only word that decodes to it (log 23). -/
def issue (i : Instr) (s : State) : State :=
  match check i s with
  | .none => accept i (beginIssue (encode i) s)
  | e => raiseError e (beginIssue (encode i) s)

/-- The three status writes of a completion (60_exceptions.md R186). -/
def finish (s : State) : State :=
  { s with
    pend := { s.pend with valid := false }
    status := { s.status with busy := false, done := true } }

/-- One step of a command: its issue if the engine is free, its completion if it is pending (log 7). The effect
reads the operand registers and RAMs, which still stand as at acceptance (20_memory.md R73; log 9). -/
def runCommand (i : Instr) (effect : State → State) (s : State) :
    Host.Outcome State Fault Refusal :=
  if s.pend.valid then .next (finish (effect s)) else .next (issue i s)

/-- The RAM bytes a command writes, as the offset of the first and their number (41_rs_poly.md R152): GEN[1..E],
REM[0..E-1], BUF[0..D+E-1], or none. -/
def destination (i : Instr) (s : State) : Nat × Nat :=
  match i with
  | .nop | .gfMul | .gfExp | .gfLog | .gfInv => (bufBase, 0)
  | .genPoly => (genAddr 1, s.elen.toNat)
  | .rsEncode | .polyMod | .syndrome => (remBase, s.elen.toNat)
  | .polyMul => (bufBase, s.dlen.toNat + s.elen.toNat)

/-! ### Resets -/

/-- A command abandoned by a soft reset: its destination becomes unwritten (70_reset_and_hazards.md R213; log 21). -/
def abandon (i : Instr) (s : State) : State :=
  { s with mem := s.mem.eraseBytes (destination i s).1 (destination i s).2 }

/-- Abandon the pending command, if there is one. -/
def abandonPending (s : State) : State :=
  if s.pend.valid then
    match decodeOp s.pend.op with
    | some i => abandon i s
    | none => s
  else s

/-- The soft reset (70_reset_and_hazards.md R212): every register to its value of 10_state.md R44. -/
def softReset (s : State) : State :=
  { abandonPending s with
    ctrlIE := false
    status := Status.clear
    cmdLast := 0#32
    argA := 0#8
    argB := 0#8
    result := 0#8
    dlen := 0#9
    elen := 0#5
    pend := { s.pend with valid := false } }

/-- The hardware reset (70_reset_and_hazards.md R211). What the outside does next is not the block's to reset
(log 13), and free values already taken are not taken again (log 3). -/
def hardReset (s : State) : State := { State.reset with inputs := s.inputs, fresh := s.fresh }

end Sys2Proof.Machine
end

