-- ==== Sys2Proof/Machine/Operands.lean ====
section
/-! DEFINITION. The implicit operands of the commands (30_encoding.md R94): D, E, the polynomial in BUF and the
coefficients in GEN. -/

namespace Sys2Proof.Machine

/-- D = DLEN[8:0], unsigned (30_encoding.md R94). -/
def lenD (s : State) : Nat := s.dlen.toNat

/-- E = ELEN[4:0], unsigned (30_encoding.md R94). -/
def lenE (s : State) : Nat := s.elen.toNat

/-- The coefficients BUF[0..D-1], highest degree first (20_memory.md R66); nothing if one is unwritten. -/
def bufOperand (s : State) : Option (List Byte) := s.mem.readBytes bufBase (lenD s)

/-- The coefficients GEN[1..E] (41_rs_poly.md R141); nothing if one is unwritten. GEN[0] = 0x01 is hardwired. -/
def genOperand (s : State) : Option (List Byte) := s.mem.readBytes (genAddr 1) (lenE s)

end Sys2Proof.Machine
end

