-- ==== Sys2Proof/Machine/Poly.lean ====
section
/-! DEFINITION. NOP and the polynomial commands (41_rs_poly.md). Coefficient lists are highest degree first
(20_memory.md R66). -/

namespace Sys2Proof.Machine

/-! ### The algorithms on coefficient lists -/

/-- `W[i+k] <- W[i+k] ⊕ gf_mul(c, G[k])` for the coefficients G[1..E] `g` over the working bytes `w` that follow
W[i] (41_rs_poly.md R142). -/
def subScaled (c : Byte) : List Byte → List Byte → List Byte
  | g :: gs, w :: ws => (w ^^^ gfMul c g) :: subScaled c gs ws
  | _, ws => ws

/-- The synthetic division of 41_rs_poly.md R142: `n` = L - E rounds on the working array `w`. A round takes the leading
byte `c`, which the array form sets to 0x00 and never reads again (log 18), and reads G[1..E] only when c ≠ 0. `g` is nothing
if one of G[1..E] is unwritten; a division that reads them has then no result (10_state.md R43; log 4). -/
def sdiv (g : Option (List Byte)) : Nat → List Byte → Option (List Byte)
  | 0, w => some w
  | _ + 1, [] => some []
  | n + 1, c :: w =>
    if c = 0#8 then sdiv g n w
    else match g with
      | some gs => sdiv g n (subScaled c gs w)
      | none => none

/-- The round of 41_rs_poly.md R144 that multiplies t(x) by (x ⊕ r): t[k] <- t[k] ⊕ gf_mul(t[k-1], r), with a new last
coefficient 0x00. -/
def mulLinear (r : Byte) (t : List Byte) : List Byte :=
  List.zipWith (fun hi lo => hi ^^^ gfMul lo r) (t ++ [0#8]) (0#8 :: t)

/-- t[0..E] of 41_rs_poly.md R144: the coefficients of the product of (x ⊕ EXP[j]), j = 0..E-1. -/
def genCoeffs : Nat → List Byte
  | 0 => [1#8]
  | j + 1 => mulLinear (expAt j) (genCoeffs j)

/-- P[m] of 41_rs_poly.md R148: the sum of gf_mul(b[i], g[m-i]) over the i at which both exist. -/
def convAt (b g : List Byte) (m : Nat) : Byte :=
  (List.range b.length).foldl
    (fun acc i => if i ≤ m ∧ m - i < g.length then acc ^^^ gfMul (b.getD i 0#8) (g.getD (m - i) 0#8) else acc) 0#8

/-- P[0..n-1] of 41_rs_poly.md R148. -/
def convolve (b g : List Byte) (n : Nat) : List Byte := (List.range n).map (convAt b g)

/-- Horner's scheme of 41_rs_poly.md R149: the value at `r` of the polynomial with coefficients `bs`. -/
def evalAt (r : Byte) (bs : List Byte) : Byte := bs.foldl (fun s b => gfMul s r ^^^ b) 0#8

/-! ### The results of the commands -/

/-- GEN[1..E] after GEN_POLY (41_rs_poly.md R144). -/
def genPolyResult (s : State) : List Byte := (genCoeffs (lenE s)).tail

/-- r[0..E-1] of RS_ENCODE: SDIV of the data followed by E zero bytes (41_rs_poly.md R146). -/
def rsEncodeResult (s : State) : Option (List Byte) :=
  match bufOperand s with
  | some b => sdiv (genOperand s) (lenD s) (b ++ List.replicate (lenE s) 0#8)
  | none => none

/-- r[0..E-1] of POLY_MOD: SDIV of the dividend behind L - D zero bytes, L = max(D, E) (41_rs_poly.md R147). -/
def polyModResult (s : State) : Option (List Byte) :=
  match bufOperand s with
  | some b =>
    let l := max (lenD s) (lenE s)
    sdiv (genOperand s) (l - lenE s) (List.replicate (l - lenD s) 0#8 ++ b)
  | none => none

/-- P[0..D+E-1] of POLY_MUL (41_rs_poly.md R148). With D = 0 no product is formed and GEN is not read (log 4). -/
def polyMulResult (s : State) : Option (List Byte) :=
  if lenD s = 0 then some (List.replicate (lenE s) 0#8)
  else match bufOperand s, genOperand s with
    | some b, some g => some (convolve b (1#8 :: g) (lenD s + lenE s))
    | _, _ => none

/-- REM[0..E-1] after SYNDROME (41_rs_poly.md R149). -/
def syndromeResult (s : State) : Option (List Byte) :=
  match bufOperand s with
  | some b => some ((List.range (lenE s)).map fun j => evalAt (expAt j) b)
  | none => none

/-! ### The commands -/

/-- NOP: nothing is written at completion (41_rs_poly.md R143). -/
def execNop (s : State) : Host.Outcome State Fault Refusal :=
  runCommand .nop (fun s => s) s

/-- GEN_POLY: GEN[1..E] (41_rs_poly.md R144). -/
def execGenPoly (s : State) : Host.Outcome State Fault Refusal :=
  runCommand .genPoly (fun s => storeBytes (genAddr 1) (lenE s) (some (genPolyResult s)) s) s

/-- RS_ENCODE: REM[0..E-1] (41_rs_poly.md R146). -/
def execRsEncode (s : State) : Host.Outcome State Fault Refusal :=
  runCommand .rsEncode (fun s => storeBytes remBase (lenE s) (rsEncodeResult s) s) s

/-- POLY_MOD: REM[0..E-1] (41_rs_poly.md R147). -/
def execPolyMod (s : State) : Host.Outcome State Fault Refusal :=
  runCommand .polyMod (fun s => storeBytes remBase (lenE s) (polyModResult s) s) s

/-- POLY_MUL: BUF[0..D+E-1] (41_rs_poly.md R148). -/
def execPolyMul (s : State) : Host.Outcome State Fault Refusal :=
  runCommand .polyMul (fun s => storeBytes bufBase (lenD s + lenE s) (polyMulResult s) s) s

/-- SYNDROME: REM[0..E-1] (41_rs_poly.md R149). -/
def execSyndrome (s : State) : Host.Outcome State Fault Refusal :=
  runCommand .syndrome (fun s => storeBytes remBase (lenE s) (syndromeResult s) s) s

end Sys2Proof.Machine
end

