-- ==== Sys2Proof/Machine/Scalar.lean ====
section
/-! DEFINITION. The scalar commands (40_gf_field.md section 3). -/

namespace Sys2Proof.Machine

/-- GF_MUL: `R.RESULT <- zext_32(gf_mul(a, b))` (40_gf_field.md R121). -/
def execGfMul (s : State) : Host.Outcome State Fault Refusal :=
  runCommand .gfMul (fun s => storeResult (some (gfMul s.argA s.argB)) s) s

/-- GF_EXP: `R.RESULT <- zext_32(EXP[i])` (40_gf_field.md R122). -/
def execGfExp (s : State) : Host.Outcome State Fault Refusal :=
  runCommand .gfExp (fun s => storeResult (some (expAt s.argA.toNat)) s) s

/-- GF_LOG: `R.RESULT <- zext_32(LOG[a])` (40_gf_field.md R123). -/
def execGfLog (s : State) : Host.Outcome State Fault Refusal :=
  runCommand .gfLog (fun s => storeResult (logAt s.argA) s) s

/-- GF_INV: `R.RESULT <- zext_32(gf_inv(a))` (40_gf_field.md R124). -/
def execGfInv (s : State) : Host.Outcome State Fault Refusal :=
  runCommand .gfInv (fun s => storeResult (gfInv s.argA) s) s

end Sys2Proof.Machine
end

