-- ==== Sys2Proof/Machine/Dispatch.lean ====
section
/-! DEFINITION. One arm per command. -/

namespace Sys2Proof.Machine

/-- One step of a command: its issue or its completion (`runCommand`). -/
def exec (i : Instr) (s : State) : Host.Outcome State Fault Refusal :=
  match i with
  | .nop => Sys2Proof.Machine.execNop s
  | .gfMul => Sys2Proof.Machine.execGfMul s
  | .gfExp => Sys2Proof.Machine.execGfExp s
  | .gfLog => Sys2Proof.Machine.execGfLog s
  | .gfInv => Sys2Proof.Machine.execGfInv s
  | .genPoly => Sys2Proof.Machine.execGenPoly s
  | .rsEncode => Sys2Proof.Machine.execRsEncode s
  | .polyMod => Sys2Proof.Machine.execPolyMod s
  | .polyMul => Sys2Proof.Machine.execPolyMul s
  | .syndrome => Sys2Proof.Machine.execSyndrome s

end Sys2Proof.Machine
end

