-- ==== Sys2Proof/WellFormed.lean ====
section
/-! DEFINITION. Which terms spell something the hardware has. -/

namespace Sys2Proof

/-- Every command is well-formed: a command word has no operand to be out of range (30_encoding.md R94). -/
def Instr.wf : Instr → Bool
  | .nop | .gfMul | .gfExp | .gfLog | .gfInv | .genPoly | .rsEncode | .polyMod | .polyMul | .syndrome => true

/-- An access the port can express: a whole 32-bit word, at a word address, inside the 4 KiB window
(20_memory.md R61). -/
def accessWf (addr n : Nat) : Bool :=
  n == 4 && addr % 4 == 0 && decide (addr < Config.windowSize)

/-- A call that spells a transaction (20_memory.md R61). -/
def Transaction.wf : Transaction → Bool
  | .read addr n => accessWf addr n
  | .write addr n _ => accessWf addr n

/-- An input that the outside can present. -/
def Input.wf : Input → Bool
  | .host t => t.wf
  | .engine | .rst => true

/-- A location whose RAM index exists (20_memory.md R62) and, for an unmapped one, a word offset of the window
that the map gives to nothing. -/
def Loc.wf : Loc → Bool
  | .id | .ctrl | .status | .cmd | .argA | .argB | .result | .dlen | .elen => true
  | .buf i => decide (i < Config.bufSize)
  | .gen k => decide (k < Config.genSize)
  | .rem j => decide (j < Config.remSize)
  | .unmapped off =>
    accessWf off 4 && (decide (0x024 ≤ off ∧ off ≤ 0x3FC) || decide (0x87C ≤ off ∧ off ≤ 0xBFC)
      || decide (0xC78 ≤ off ∧ off ≤ 0xFFC))

end Sys2Proof
end

