-- ==== Sys2Proof/Machine/Port.lean ====
section
/-! DEFINITION. The host port (20_memory.md): reads, writes and the issue of a command, and the step of the machine
over the next input. The commands' own meaning is an argument, `run`; Step.lean gives it `exec`. -/

namespace Sys2Proof.Machine

/-- Put a word on the port as the answer to a read. -/
def answer (v : Word) (s : State) : State := { s with rdata := some v }

/-- A read of a location that is not blocked: the registers (20_memory.md R63, 10_state.md R21 to R33), the RAM bytes
(20_memory.md R64), the hardwired GEN[0] (10_state.md R36), and 0 with ACCERR for an unmapped offset (20_memory.md R65). -/
def readLoc (l : Loc) (s : State) : State :=
  match l with
  | .id => answer Config.idValue s
  | .ctrl => answer (ctrlWord s.ctrlIE) s
  | .status => answer s.status.word s
  | .cmd => answer s.cmdLast s
  | .argA => answer (s.argA.setWidth 32) s
  | .argB => answer (s.argB.setWidth 32) s
  | .result => answer (s.result.setWidth 32) s
  | .dlen => answer (s.dlen.setWidth 32) s
  | .elen => answer (s.elen.setWidth 32) s
  | .buf i => showByte (s.mem.read (bufAddr i)) s
  | .gen k => if k = 0 then answer 1#32 s else showByte (s.mem.read (genAddr k)) s
  | .rem j => showByte (s.mem.read (remAddr j)) s
  | .unmapped _ => accessError (answer 0#32 s)

/-- A host read: blocked while BUSY = 1 at the locations of 20_memory.md R79, where it returns 0 and sets ACCERR. -/
def hostRead (l : Loc) (s : State) : State :=
  if s.status.busy && blocked l then accessError (answer 0#32 s) else readLoc l s

/-- A write to CTRL (10_state.md R22, 70_reset_and_hazards.md R212). -/
def writeCtrl (v : Word) (s : State) : State :=
  if v.getLsbD 1 then softReset s else { s with ctrlIE := v.getLsbD 0 }

/-- A write to a location that is not blocked, other than CMD: the writable fields take their bits of the word
(20_memory.md R63, R64, 10_state.md R34); a write to a read-only location (20_memory.md R70) or to an unmapped offset
(R65) sets ACCERR and does nothing else. -/
def writeLoc (l : Loc) (v : Word) (s : State) : State :=
  match l with
  | .ctrl => writeCtrl v s
  | .status => { s with status := s.status.clearBits v }
  | .argA => { s with argA := v.setWidth 8 }
  | .argB => { s with argB := v.setWidth 8 }
  | .dlen => { s with dlen := v.setWidth 9 }
  | .elen => { s with elen := v.setWidth 5 }
  | .buf i => { s with mem := s.mem.write (bufAddr i) (v.setWidth 8) }
  | .gen k => if k = 0 then accessError s else { s with mem := s.mem.write (genAddr k) (v.setWidth 8) }
  | .cmd => s
  | .id | .result | .rem _ | .unmapped _ => accessError s

/-- A write to CMD, the issue of a command (60_exceptions.md R182): ignored with ACCERR while BUSY = 1, rejected if the
word is no command, and otherwise the command's own issue. -/
def writeCmd (run : Instr → State → Host.Outcome State Fault Refusal) (v : Word) (s : State) :
    Host.Outcome State Fault Refusal :=
  if s.status.busy then .next (accessError s)
  else match decode v with
    | .illegal _ => .next (issueIllegal v s)
    | .cmd i => run i s

/-- A host write: blocked while BUSY = 1 at the locations of 20_memory.md R79, where it does nothing but set ACCERR. -/
def hostWrite (run : Instr → State → Host.Outcome State Fault Refusal) (l : Loc) (v : Word) (s : State) :
    Host.Outcome State Fault Refusal :=
  if l = .cmd then writeCmd run v s
  else if s.status.busy && blocked l then .next (accessError s)
  else .next (writeLoc l v s)

/-- A call of the host on the port; one that spells no transaction is refused (20_memory.md R61). -/
def transact (run : Instr → State → Host.Outcome State Fault Refusal) (t : Transaction) (s : State) :
    Host.Outcome State Fault Refusal :=
  if t.wf then
    match t with
    | .read addr _ => .next (hostRead (locOf addr) s)
    | .write addr _ v => hostWrite run (locOf addr) v s
  else .refused .noTransaction

/-- A slot of the engine: the completion step, enabled exactly when PEND.valid = 1 (60_exceptions.md R186). With nothing
pending the slot passes (log 1). -/
def engineStep (run : Instr → State → Host.Outcome State Fault Refusal) (s : State) :
    Host.Outcome State Fault Refusal :=
  if s.pend.valid then
    match decodeOp s.pend.op with
    | some i => run i s
    | none => .fault .reservedOpcodePending
  else .next s

/-- The state in which the next input acts: the input is taken from the list, and the read data of an earlier step is
no longer on the port (log 5). -/
def takeInput (s : State) : State := { s with inputs := s.inputs.tail, rdata := none }

/-- One step of the block (60_exceptions.md R190): a host transaction, a slot of the engine or a hardware reset, as
the list of inputs says. When the outside does nothing more, the engine alone acts, so a pending command completes
(weak fairness, 70_reset_and_hazards.md R222; log 1). -/
def advance (run : Instr → State → Host.Outcome State Fault Refusal) (s : State) :
    Host.Outcome State Fault Refusal :=
  match s.inputs with
  | [] => engineStep run (takeInput s)
  | .engine :: _ => engineStep run (takeInput s)
  | .host t :: _ => transact run t (takeInput s)
  | .rst :: _ => .next (hardReset (takeInput s))

/-- A free engine, and the CMD write of a word as the next input. -/
def presentCommand (cw : Word) (s : State) : State :=
  { s with
    status := { s.status with busy := false }
    pend := { s.pend with valid := false }
    inputs := .host (.write 0x00C 4 cw) :: s.inputs }

end Sys2Proof.Machine
end

