-- ==== Sys2Proof/Machine/Step.lean ====
section
/-! DEFINITION. The step of the machine, and how a command word is placed where the next step takes it. -/

namespace Sys2Proof.Machine

/-- One step of the block over the next input (`advance`), with the commands' meanings (`exec`). -/
def step (s : State) : Host.Outcome State Fault Refusal := advance exec s

/-- The state whose next step issues the command word `w`: the block fetches nothing, a command word comes from a host
write to CMD (10_state.md R40, 20_memory.md R76), so that write is put before the other inputs, and the engine is free,
as an issue needs (60_exceptions.md R182). Log 8. -/
def State.withFetchWord (s : State) (nbits w : Nat) : State :=
  presentCommand (BitVec.ofNat 32 (w % 2 ^ nbits)) s

end Sys2Proof.Machine
end

