-- ==== Sys2Proof/Machine/HostProgram.lean ====
section
/-! DEFINITION. The host-program notation of 30_encoding.md R95 and R96, and what a line of it does: a bus operation is one
transaction of the block, a branch is the host's own. No behaviour of the block depends on it (D25; log 20, 24, 25, 26). -/

namespace Sys2Proof.Machine

/-- The fields of STATUS a branch can name (30_encoding.md R95). -/
inductive StatusField where
  | busy
  | done
  | err
  | accerr
  | ecode
  deriving DecidableEq, Repr

/-- `<loc>`: a location by name, or an offset `@0x...` (30_encoding.md R95). -/
inductive HostLoc where
  | named (l : Loc)
  | raw (off : Nat)
  deriving DecidableEq, Repr

/-- `<value>`: a number or a command mnemonic (30_encoding.md R95), or the host variable an earlier read named (log 20). -/
inductive HostValue where
  | num (v : Word)
  | command (i : Instr)
  | var (x : String)
  deriving DecidableEq, Repr

/-- A line of a host program without its label (30_encoding.md R95). -/
inductive HostLine where
  | wr (l : HostLoc) (v : HostValue)
  | rd (l : HostLoc) (x : String)
  | bne (x : String) (f : Option StatusField) (v : Word) (label : String)
  | beq (x : String) (f : Option StatusField) (v : Word) (label : String)
  | jmp (label : String)
  | halt
  deriving DecidableEq, Repr

/-- A host program: lines, each with its label if it has one (30_encoding.md R95). -/
abbrev HostProgram := List (Option String × HostLine)

/-- The `off(loc)` of 30_encoding.md R95. DESIGN CHOICE: R95 gives no offset to a named index outside the ranges of 20_memory.md R62;
here it is base + 4 * index with no check, so BUF[256] is the offset of GEN[0] (log 26). -/
def HostLoc.off : HostLoc → Nat
  | .named l => offsetOf l
  | .raw off => off

/-- The triple (we, offset, wdata) of a bus operation whose written value is known, with wdata = 0 for a read
(30_encoding.md R95); a branch has none. -/
def busTriple : HostLine → Option (Bool × Nat × Word)
  | .wr l (.num v) => some (true, l.off, v)
  | .wr l (.command i) => some (true, l.off, encode i)
  | .wr _ (.var _) => none
  | .rd l _ => some (false, l.off, 0#32)
  | .bne _ _ _ _ | .beq _ _ _ _ | .jmp _ | .halt => none

/-! ### The pseudo-operations (30_encoding.md R96) -/

/-- `ISSUE <mnemonic>`. -/
def pseudoIssue (i : Instr) : HostProgram := [(none, .wr (.named .cmd) (.command i))]

/-- `WAIT`, with the label `w` and the variable `s` it uses. -/
def pseudoWait (w s : String) : HostProgram :=
  [(some w, .rd (.named .status) s), (none, .bne s (some .busy) 0#32 w)]

/-- `RUN <mnemonic>`. -/
def pseudoRun (i : Instr) (w s : String) : HostProgram := pseudoIssue i ++ pseudoWait w s

/-- `LOAD BUF, b0 b1 ... b(n-1)`. -/
def pseudoLoadBuf (bs : List Byte) : HostProgram :=
  (List.range bs.length).map fun i => (none, .wr (.named (.buf i)) (.num ((bs.getD i 0#8).setWidth 32)))

/-- `LOAD GEN, g1 ... gE`. -/
def pseudoLoadGen (gs : List Byte) : HostProgram :=
  (List.range gs.length).map fun i => (none, .wr (.named (.gen (i + 1))) (.num ((gs.getD i 0#8).setWidth 32)))

/-- `DUMP REM, E`, into the variables that `names` gives in order. -/
def pseudoDumpRem (names : List String) : HostProgram :=
  (List.range names.length).map fun j => (none, .rd (.named (.rem j)) (names.getD j ""))

/-- `CLEAR`. -/
def pseudoClear : HostProgram := [(none, .wr (.named .status) (.num 0x0000000E#32))]

/-! ### What a line does -/

/-- The host: the line it is at, its variables (the latest first), and whether it has ended. -/
structure HostCpu where
  line : Nat
  vars : List (String × Word)
  halted : Bool
  deriving DecidableEq, Repr

/-- The field of a STATUS word (10_state.md R23). -/
def statusFieldOf (f : StatusField) (v : Word) : Word :=
  match f with
  | .busy => (v >>> 0) &&& 1#32
  | .done => (v >>> 1) &&& 1#32
  | .err => (v >>> 2) &&& 1#32
  | .accerr => (v >>> 3) &&& 1#32
  | .ecode => (v >>> 8) &&& 0xF#32

/-- The value a branch compares. -/
def branchValue (f : Option StatusField) (v : Word) : Word :=
  match f with
  | some f => statusFieldOf f v
  | none => v

/-- The line a label stands at. DESIGN CHOICE: R95 does not say which line a label used twice names; here it is the first (log 25). -/
def labelLine (p : HostProgram) (label : String) : Option Nat :=
  p.findIdx? fun l => l.1 == some label

/-- The host at the line after this one. -/
def HostCpu.advanceLine (h : HostCpu) : HostCpu := { h with line := h.line + 1 }

/-- The host at a label, ended if there is no such label (log 20). -/
def HostCpu.goto (p : HostProgram) (label : String) (h : HostCpu) : HostCpu :=
  match labelLine p label with
  | some n => { h with line := n }
  | none => { h with halted := true }

/-- A branch: taken, not taken, or the end of the host if its variable was never read (log 20). -/
def HostCpu.branch (p : HostProgram) (x : String) (f : Option StatusField) (label : String)
    (taken : Word → Bool) (h : HostCpu) : HostCpu :=
  match h.vars.lookup x with
  | some v => if taken (branchValue f v) then h.goto p label else h.advanceLine
  | none => { h with halted := true }

/-- The value of `<value>`. -/
def HostValue.word (h : HostCpu) : HostValue → Option Word
  | .num v => some v
  | .command i => some (encode i)
  | .var x => h.vars.lookup x

/-- One line of a host program against the block: a bus operation is the next input of the block and one `step` of it; every
other line leaves the block alone (30_encoding.md R95). The caller gives the engine its slots. DESIGN CHOICE: past the last line of a
program with no HALT, of which R95 says nothing, the host ends and the block is left alone (log 24). -/
def hostLine (p : HostProgram) (h : HostCpu) (s : State) : HostCpu × Host.Outcome State Fault Refusal :=
  match p[h.line]? with
  | none => ({ h with halted := true }, .next s)
  | some (_, .wr l v) =>
    match v.word h with
    | some w => (h.advanceLine, step { s with inputs := .host (.write l.off 4 w) :: s.inputs })
    | none => ({ h with halted := true }, .next s)
  | some (_, .rd l x) =>
    match step { s with inputs := .host (.read l.off 4) :: s.inputs } with
    | .next t => ({ h.advanceLine with vars := (x, t.rdata.getD 0#32) :: h.vars }, .next t)
    | .fault e => (h, .fault e)
    | .refused r => (h, .refused r)
  | some (_, .bne x f v label) => (h.branch p x f label (fun w => w != v), .next s)
  | some (_, .beq x f v label) => (h.branch p x f label (fun w => w == v), .next s)
  | some (_, .jmp label) => (h.goto p label, .next s)
  | some (_, .halt) => ({ h with halted := true }, .next s)

end Sys2Proof.Machine
end

