-- ==== Sys2Proof/Safety.lean ====
section
/-! DEFINITION. What counts as a sound state and a safe run: the invariants the spec states of every state a run can
reach, and that nothing stops the block (20_memory.md R60, 60_exceptions.md R180). -/

namespace Sys2Proof.Machine

/-- The pending opcode is a command that passed its issue checks, its word is CMD_LAST, and the operands the checks read
still pass (60_exceptions.md R182, R183; 20_memory.md R73). -/
def pendLegal (s : State) : Bool :=
  match decodeOp s.pend.op with
  | some i => check i s == .none && s.cmdLast == encode i
  | none => false

/-- The invariants of 10_state.md and 60_exceptions.md, with the canonical form of the memory. -/
structure SoundState (s : State) : Prop where
  /-- The memory is in its canonical form. -/
  memWf : s.mem.wf
  /-- Only bytes of BUF, GEN[1..30] and REM are ever written (20_memory.md R62, 10_state.md R36: GEN[0] is hardwired). -/
  memRam : ∀ c ∈ s.mem, isRamOffset c.1 = true
  /-- BUSY = 1 if and only if PEND.valid = 1 (10_state.md R24). -/
  busyPend : s.status.busy = s.pend.valid
  /-- BUSY = 1 implies DONE = 0 and ERR = 0 (10_state.md R24). -/
  busyClear : s.status.busy = true → s.status.done = false ∧ s.status.err = false
  /-- DONE and ERR describe one last issued command, so they are never both 1 (10_state.md R25, R26; D12). -/
  doneErr : ¬(s.status.done = true ∧ s.status.err = true)
  /-- ECODE ≠ 0 if and only if ERR = 1 (10_state.md R26). -/
  errCode : s.status.ecode ≠ 0#4 ↔ s.status.err = true
  /-- The codes 6 to 15 are never produced (60_exceptions.md R181, V3). -/
  codeRange : s.status.ecode.toNat ≤ 5
  /-- A pending command passed its checks (60_exceptions.md R182, R185). -/
  pendOk : s.pend.valid = true → pendLegal s = true

/-- The outside presents only transactions that the port can express (20_memory.md R61). -/
def inputsWf (s : State) : Bool := s.inputs.all Input.wf

/-- A run of `k` steps that nothing stops. -/
def Unstopped (k : Nat) (s : State) : Prop := ∃ t, Host.Core.run core k s = .next t

/-- An input that takes away a pending command: a hardware reset, or a CTRL write with bit 1 set
(70_reset_and_hazards.md R211, R212). -/
def inputResets : Input → Bool
  | .rst => true
  | .host (.write addr _ v) => addr == 0x004 && v.getLsbD 1
  | .host (.read _ _) | .engine => false

end Sys2Proof.Machine
end

