-- ==== Sys2Proof/Certificates/Slice0/Obligations.lean ====
section
/-! DEFINITION. The statements for the provers. Where a statement says what a step leaves, the state is written out as a
record, field by field, and not through the operations of Machine/Ops.lean. -/

namespace Sys2Proof.Claims
open Sys2Proof Sys2Proof.Machine

/-- The next input is `x`. -/
def Next (x : Input) (s : State) : Prop := s.inputs.head? = some x

/-- The next move is the engine's: its slot, or nothing more from outside (log 1). -/
def EngineNext (s : State) : Prop := s.inputs = [] ∨ s.inputs.head? = some .engine

/-- The state in which the next input acts. -/
def served (s : State) : State := { s with inputs := s.inputs.tail, rdata := none }

/-- The engine is free. -/
def Idle (s : State) : Prop := s.status.busy = false ∧ s.pend.valid = false

/-- The command is accepted and not completed (60_exceptions.md R185). -/
def Pending (i : Instr) (s : State) : Prop :=
  s.status.busy = true ∧ s.pend.valid = true ∧ s.pend.op = opcode i

/-- E is in 1..30. -/
def GoodElen (s : State) : Prop := 1 ≤ s.elen.toNat ∧ s.elen.toNat ≤ 30

/-- The state after the acceptance of the command with opcode `op` (60_exceptions.md R182). -/
def acceptedAs (cw : Word) (op : BitVec 4) (s : State) : State :=
  { s with
    cmdLast := cw
    pend := { valid := true, op := op }
    status := { busy := true, done := false, err := false, accerr := s.status.accerr, ecode := 0#4 } }

/-- The state after the rejection of the word `cw` with a code (60_exceptions.md R182, R184). -/
def rejectedAs (cw : Word) (code : BitVec 4) (s : State) : State :=
  { s with
    cmdLast := cw
    status := { busy := s.status.busy, done := false, err := true, accerr := s.status.accerr, ecode := code } }

/-- The three status writes of a completion, and nothing else (60_exceptions.md R186). -/
def completed (s : State) : State :=
  { s with
    pend := { s.pend with valid := false }
    status := { s.status with busy := false, done := true } }

/-- ACCERR <- 1, and nothing else. -/
def flagged (s : State) : State := { s with status := { s.status with accerr := true } }

/-- The `check(cw)` of 60_exceptions.md R183. -/
def checkRule (cw : Word) (s : State) : BitVec 4 :=
  let op := cw.toNat % 16
  let d := s.dlen.toNat
  let e := s.elen.toNat
  if cw.toNat / 16 ≠ 0 ∨ 0xA ≤ op then 1#4
  else if op = 3 ∧ s.argA = 0x00#8 then 2#4
  else if op = 4 ∧ s.argA = 0x00#8 then 3#4
  else if (op = 5 ∨ op = 6 ∨ op = 7 ∨ op = 8 ∨ op = 9) ∧ (e = 0 ∨ 30 < e) then 4#4
  else if (op = 6 ∨ op = 7 ∨ op = 9) ∧ 256 < d then 5#4
  else if op = 8 ∧ 256 < d + e then 5#4
  else 0#4

/-- The issue of 60_exceptions.md R182. -/
def issueRule (cw : Word) (s : State) : State :=
  if s.status.busy then flagged s
  else if checkRule cw s ≠ 0#4 then rejectedAs cw (checkRule cw s) s
  else acceptedAs cw (BitVec.ofNat 4 (cw.toNat % 16)) s

/-- The ten command words of 30_encoding.md R92, written out. -/
def commandWords : List (Word × Instr) :=
  [(0x00000000#32, .nop), (0x00000001#32, .gfMul), (0x00000002#32, .gfExp), (0x00000003#32, .gfLog),
   (0x00000004#32, .gfInv), (0x00000005#32, .genPoly), (0x00000006#32, .rsEncode), (0x00000007#32, .polyMod),
   (0x00000008#32, .polyMul), (0x00000009#32, .syndrome)]

/-- The unmapped word offsets (20_memory.md R62). -/
def UnmappedOff (off : Nat) : Prop :=
  off % 4 = 0 ∧ ((0x024 ≤ off ∧ off ≤ 0x3FC) ∨ (0x87C ≤ off ∧ off ≤ 0xBFC) ∨ (0xC78 ≤ off ∧ off ≤ 0xFFC))

/-- The read-only word offsets ID, RESULT, GEN[0] and REM[0..29] (20_memory.md R70). -/
def ReadOnlyOff (off : Nat) : Prop :=
  off % 4 = 0 ∧ (off = 0x000 ∨ off = 0x018 ∨ off = 0x800 ∨ (0xC00 ≤ off ∧ off ≤ 0xC74))

/-- The `blocked(off)` of 20_memory.md R79, of word offsets. -/
def BlockedOff (off : Nat) : Prop :=
  off % 4 = 0 ∧ (off = 0x010 ∨ off = 0x014 ∨ off = 0x018 ∨ off = 0x01C ∨ off = 0x020 ∨
    (0x400 ≤ off ∧ off ≤ 0x7FC) ∨ (0x800 ≤ off ∧ off ≤ 0x878) ∨ (0xC00 ≤ off ∧ off ≤ 0xC74))

/-- `n` bytes in consecutive words from `base` on hold `bs`, and every other byte is as in `m`. -/
def StoredAt (base : Nat) (bs : List Byte) (m m' : Memory) : Prop :=
  (∀ k, k < bs.length → m'.read (base + 4 * k) = some (bs.getD k 0#8)) ∧
  (∀ a, (∀ k, k < bs.length → a ≠ base + 4 * k) → m'.read a = m.read a)

/-- Addition of two polynomials given by equally long coefficient lists (40_gf_field.md R111). -/
def addPoly (p q : List Byte) : List Byte := List.zipWith (fun a b => a ^^^ b) p q

/-- `w` = q·g ⊕ r with `q` of `n` coefficients, g monic with the coefficients `g` below the leading 1, and the degree
of `r` below that of g (41_rs_poly.md R142). -/
def IsDivision (g : List Byte) (n : Nat) (w q r : List Byte) : Prop :=
  q.length = n ∧ r.length = g.length ∧
  w = addPoly (convolve q (1#8 :: g) (n + g.length)) (List.replicate n 0#8 ++ r)

/-- The table of 41_rs_poly.md R145, a row for each E in 1..30: GEN[1..E] and their LOG. -/
def generatorTable : List (List Byte × List Byte) :=
  [([0x01],
      [0])]
  ++ [([0x03, 0x02],
      [25, 1])]
  ++ [([0x07, 0x0E, 0x08],
      [198, 199, 3])]
  ++ [([0x0F, 0x36, 0x78, 0x40],
      [75, 249, 78, 6])]
  ++ [([0x1F, 0xC6, 0x3F, 0x93, 0x74],
      [113, 164, 166, 119, 10])]
  ++ [([0x3F, 0x01, 0xDA, 0x20, 0xE3, 0x26],
      [166, 0, 134, 5, 176, 15])]
  ++ [([0x7F, 0x7A, 0x9A, 0xA4, 0x0B, 0x44, 0x75],
      [87, 229, 146, 149, 238, 102, 21])]
  ++ [([0xFF, 0x0B, 0x51, 0x36, 0xEF, 0xAD, 0xC8, 0x18],
      [175, 238, 208, 249, 215, 252, 196, 28])]
  ++ [([0xE2, 0xCF, 0x9E, 0xF5, 0xEB, 0xA4, 0xE8, 0xC5, 0x25],
      [95, 246, 137, 231, 235, 149, 11, 123, 36])]
  ++ [([0xD8, 0xC2, 0x9F, 0x6F, 0xC7, 0x5E, 0x5F, 0x71, 0x9D, 0xC1],
      [251, 67, 46, 61, 118, 70, 64, 94, 32, 45])]
  ++ [([0xAC, 0x82, 0xA3, 0x32, 0x7B, 0xDB, 0xA2, 0xF8, 0x90, 0x74, 0xA0],
      [220, 192, 91, 194, 172, 177, 209, 116, 227, 10, 55])]
  ++ [([0x44, 0x77, 0x43, 0x76, 0xDC, 0x1F, 0x07, 0x54, 0x5C, 0x7F, 0xD5, 0x61],
      [102, 43, 98, 121, 187, 113, 198, 143, 131, 87, 157, 66])]
  ++ [([0x89, 0x49, 0xE3, 0x11, 0xB1, 0x11, 0x34, 0x0D, 0x2E, 0x2B, 0x53, 0x84, 0x78],
      [74, 152, 176, 100, 86, 100, 106, 104, 130, 218, 206, 140, 78])]
  ++ [([0x0E, 0x36, 0x72, 0x46, 0xAE, 0x97, 0x2B, 0x9E, 0xC3, 0x7F, 0xA6, 0xD2, 0xEA, 0xA3],
      [199, 249, 155, 48, 190, 124, 218, 137, 216, 87, 207, 59, 22, 91])]
  ++ [([0x1D, 0xC4, 0x6F, 0xA3, 0x70, 0x4A, 0x0A, 0x69, 0x69, 0x8B, 0x84, 0x97, 0x20, 0x86, 0x1A],
      [8, 183, 61, 91, 202, 37, 51, 58, 58, 237, 140, 124, 5, 99, 105])]
  ++ [([0x3B, 0x0D, 0x68, 0xBD, 0x44, 0xD1, 0x1E, 0x08, 0xA3, 0x41, 0x29, 0xE5, 0x62, 0x32, 0x24, 0x3B],
      [120, 104, 107, 109, 102, 161, 76, 3, 91, 191, 147, 169, 182, 194, 225, 120])]
  ++ [([0x77, 0x42, 0x53, 0x78, 0x77, 0x16, 0xC5, 0x53, 0xF9, 0x29, 0x8F, 0x86, 0x55, 0x35, 0x7D, 0x63, 0x4F],
      [43, 139, 206, 78, 43, 239, 123, 206, 214, 147, 24, 99, 150, 39, 243, 163, 136])]
  ++ [([0xEF, 0xFB, 0xB7, 0x71, 0x95, 0xAF, 0xC7, 0xD7, 0xF0, 0xDC, 0x49, 0x52, 0xAD, 0x4B, 0x20, 0x43, 0xD9, 0x92],
      [215, 234, 158, 94, 184, 97, 118, 170, 79, 187, 152, 148, 252, 179, 5, 98, 96, 153])]
  ++ [([0xC2, 0x08, 0x1A, 0x92, 0x14, 0xDF, 0xBB, 0x98, 0x55, 0x73, 0xEE, 0x85, 0x92, 0x6D, 0xAD, 0x8A, 0x21,
       0xAC, 0xB3],
      [67, 3, 105, 153, 52, 90, 83, 17, 150, 159, 44, 128, 153, 133, 252, 222, 138, 220, 171])]
  ++ [([0x98, 0xB9, 0xF0, 0x05, 0x6F, 0x63, 0x06, 0xDC, 0x70, 0x96, 0x45, 0x24, 0xBB, 0x16, 0xE4, 0xC6, 0x79,
       0x79, 0xA5, 0xAE],
      [17, 60, 79, 50, 61, 163, 26, 187, 202, 180, 221, 225, 83, 239, 156, 164, 212, 212, 188, 190])]
  ++ [([0x2C, 0xF3, 0x0D, 0x83, 0x31, 0x84, 0xC2, 0x43, 0xD6, 0x1C, 0x59, 0x7C, 0x52, 0x9E, 0xF4, 0x25, 0xEC,
       0x8E, 0x52, 0xFF, 0x59],
      [240, 233, 104, 247, 181, 140, 67, 98, 85, 200, 210, 115, 148, 137, 230, 36, 122, 254, 148, 175, 210])]
  ++ [([0x59, 0xB3, 0x83, 0xB0, 0xB6, 0xF4, 0x13, 0xBD, 0x45, 0x28, 0x1C, 0x89, 0x1D, 0x7B, 0x43, 0xFD, 0x56,
       0xDA, 0xE6, 0x1A, 0x91, 0xF5],
      [210, 171, 247, 242, 93, 230, 14, 109, 221, 53, 200, 74, 8, 172, 98, 80, 219, 134, 160, 105, 165, 231])]
  ++ [([0xB3, 0x44, 0x9A, 0xA3, 0x8C, 0x88, 0xBE, 0x98, 0x19, 0x55, 0x13, 0x03, 0xC4, 0x1B, 0x71, 0xC6, 0x12,
       0x82, 0x02, 0x78, 0x5D, 0x29, 0x47],
      [171, 102, 146, 91, 49, 103, 65, 17, 193, 150, 14, 25, 183, 248, 94, 164, 224, 192, 1, 78, 56, 147, 253])]
  ++ [([0x7A, 0x76, 0xA9, 0x46, 0xB2, 0xED, 0xD8, 0x66, 0x73, 0x96, 0xE5, 0x49, 0x82, 0x48, 0x3D, 0x2B, 0xCE,
       0x01, 0xED, 0xF7, 0x7F, 0xD9, 0x90, 0x75],
      [229, 121, 135, 48, 211, 117, 251, 126, 159, 180, 169, 152, 192, 226, 228, 218, 111, 0, 117, 232, 87, 96,
       227, 21])]
  ++ [([0xF5, 0x31, 0xE4, 0x35, 0xD7, 0x06, 0xCD, 0xD2, 0x26, 0x52, 0x38, 0x50, 0x61, 0x8B, 0x51, 0x86, 0x7E,
       0xA8, 0x62, 0xE2, 0x7D, 0x17, 0xAB, 0xAD, 0xC1],
      [231, 181, 156, 39, 170, 26, 12, 59, 15, 148, 201, 54, 66, 237, 208, 99, 167, 144, 182, 95, 243, 129, 178,
       252, 45])]
  ++ [([0xF6, 0x33, 0xB7, 0x04, 0x88, 0x62, 0xC7, 0x98, 0x4D, 0x38, 0xCE, 0x18, 0x91, 0x28, 0xD1, 0x75, 0xE9,
       0x2A, 0x87, 0x44, 0x46, 0x90, 0x92, 0x4D, 0x2B, 0x5E],
      [173, 125, 158, 2, 103, 182, 118, 17, 145, 201, 111, 28, 165, 53, 161, 21, 245, 142, 13, 102, 48, 227, 153,
       145, 218, 70])]
  ++ [([0xF0, 0x3D, 0x1D, 0x91, 0x90, 0x75, 0x96, 0x30, 0x3A, 0x8B, 0x5E, 0x86, 0xC1, 0x69, 0x21, 0xA9, 0xCA,
       0x66, 0x7B, 0x71, 0xC3, 0x19, 0xD5, 0x06, 0x98, 0xA4, 0xD9],
      [79, 228, 8, 165, 227, 21, 180, 29, 9, 237, 70, 99, 45, 58, 138, 135, 73, 126, 172, 94, 216, 193, 157, 26,
       17, 149, 96])]
  ++ [([0xFC, 0x09, 0x1C, 0x0D, 0x12, 0xFB, 0xD0, 0x96, 0x67, 0xAE, 0x64, 0x29, 0xA7, 0x0C, 0xF7, 0x38, 0x75,
       0x77, 0xE9, 0x7F, 0xB5, 0x64, 0x79, 0x93, 0xB0, 0x4A, 0x3A, 0xC5],
      [168, 223, 200, 104, 224, 234, 108, 180, 110, 190, 195, 147, 205, 27, 232, 201, 21, 43, 245, 87, 42, 195,
       212, 119, 242, 37, 9, 123])]
  ++ [([0xE4, 0xC1, 0xC4, 0x30, 0xAA, 0x56, 0x50, 0xD9, 0x36, 0x8F, 0x4F, 0x20, 0x58, 0xFF, 0x57, 0x18, 0x0F,
       0xFB, 0x55, 0x52, 0xC9, 0x3A, 0x70, 0xBF, 0x99, 0x6C, 0x84, 0x8F, 0xAA],
      [156, 45, 183, 29, 151, 219, 54, 96, 249, 24, 136, 5, 241, 175, 189, 28, 75, 234, 150, 148, 23, 9, 202,
       162, 68, 250, 140, 24, 151])]
  ++ [([0xD4, 0xF6, 0x4D, 0x49, 0xC3, 0xC0, 0x4B, 0x62, 0x05, 0x46, 0x67, 0xB1, 0x16, 0xD9, 0x8A, 0x33, 0xB5,
       0xF6, 0x48, 0x19, 0x12, 0x2E, 0xE4, 0x4A, 0xD8, 0xC3, 0x0B, 0x6A, 0x82, 0x96],
      [41, 173, 145, 152, 216, 31, 179, 182, 50, 48, 110, 86, 239, 96, 222, 125, 42, 173, 226, 193, 224, 130,
       156, 37, 251, 216, 238, 40, 192, 180])]

end Sys2Proof.Claims

open Sys2Proof Sys2Proof.Machine Sys2Proof.Claims

/-! ### Encoding -/

/-- 30_encoding.md R92: the ten words, written out, decode to their commands and are what the encoder gives. -/
def Obligations.CommandWordsDecodeAndEncode : Prop :=
  ∀ p ∈ commandWords, decode p.1 = .cmd p.2 ∧ encode p.2 = p.1

/-- 30_encoding.md R97: words with RSV ≠ 0 and words with OP in 0xA..0xF are illegal, and the words that decode to a
command are exactly the ten of the opcode map. -/
def Obligations.DecoderReadsExactlyTenWords : Prop :=
  (∀ cw : Word, cw.toNat / 16 ≠ 0 → ∃ why, decode cw = .illegal why) ∧
  (∀ cw : Word, cw.toNat / 16 = 0 → 0xA ≤ cw.toNat % 16 → ∃ why, decode cw = .illegal why) ∧
  (∀ (cw : Word) (i : Instr), decode cw = .cmd i ↔ (cw, i) ∈ commandWords)

/-- Decoding and encoding agree, for words as the opcode table gives them: a table word decodes to a command exactly when it
is that command's word. 30_encoding.md R90 knows command words of 32 bits alone: that a word of fewer than 32 bits is taken with
its upper bits 0 is the model's choice (log 8). -/
def Obligations.TableWordDecodesExactlyToItsEncoding : Prop :=
  ∀ (nbits w : Nat) (i : Instr), i.wf = true →
    (decodeTableWord nbits w = some i ↔ nbits ≤ 32 ∧ w % 2 ^ nbits = (encode i).toNat)

/-- 30_encoding.md R91, R93: the issue of a word with RSV ≠ 0 or with a reserved opcode is rejected with ILLEGAL_CMD; every
other word is a command. -/
def Obligations.IllegalWordIsRejected : Prop :=
  (∀ (s : State) (cw : Word), Next (.host (.write 0x00C 4 cw)) s → Idle s →
    (cw.toNat / 16 ≠ 0 ∨ 0xA ≤ cw.toNat % 16) → step s = .next (rejectedAs cw 1#4 (served s))) ∧
  (∀ cw : Word, cw.toNat / 16 = 0 → cw.toNat % 16 < 0xA → ∃ i, decode cw = .cmd i)

/-! ### A step runs a command -/

/-- A host write of a command's word to CMD while the engine is free is one step of that command: `exec` in the state from
which the input is taken. -/
def Obligations.CmdWriteRunsTheDecodedCommand : Prop :=
  ∀ (s : State) (cw : Word) (i : Instr), Next (.host (.write 0x00C 4 cw)) s → s.status.busy = false →
    decode cw = .cmd i → step s = exec i (served s)

/-- The engine's move with a command pending is one step of that command; with nothing pending it changes nothing but
what `served` says (log 1). -/
def Obligations.EngineMoveRunsThePendingCommand : Prop :=
  (∀ (s : State) (i : Instr), EngineNext s → s.pend.valid = true → s.pend.op = opcode i →
    step s = exec i (served s)) ∧
  (∀ s : State, EngineNext s → s.pend.valid = false → step s = .next (served s))

/-- The model's placing of a word (log 8): the very next step of any state in which a command's word is placed is that
command's issue. -/
def Obligations.PlacedWordIsIssuedNext : Prop :=
  ∀ (s : State) (i : Instr),
    step (s.withFetchWord 32 (encode i).toNat) =
      exec i { s with
        status := { s.status with busy := false }
        pend := { s.pend with valid := false }
        rdata := none }

/-! ### Issue and completion -/

/-- 60_exceptions.md R182, R183, R184: a write to CMD in every state in which BUSY and PEND.valid agree, with the checks
in their order. -/
def Obligations.CmdWriteFollowsTheIssueRule : Prop :=
  ∀ (s : State) (cw : Word), Next (.host (.write 0x00C 4 cw)) s → s.status.busy = s.pend.valid →
    step s = .next (issueRule cw (served s))

/-- 60_exceptions.md R185 and 20_memory.md R73: while a command is pending no host transaction but a soft reset frees the
engine, replaces the command, or changes an operand register or a RAM byte. -/
def Obligations.PendingCommandAndOperandsAreHeld : Prop :=
  ∀ (s t : State) (x : Transaction), SoundState s → s.pend.valid = true → Next (.host x) s →
    inputResets (.host x) = false → step s = .next t →
    t.pend = s.pend ∧ t.status.busy = true ∧ t.argA = s.argA ∧ t.argB = s.argB ∧ t.dlen = s.dlen ∧
      t.elen = s.elen ∧ t.mem = s.mem ∧ t.cmdLast = s.cmdLast ∧ t.result = s.result

/-- 60_exceptions.md R186: the engine's move with a command pending is next, makes the three status writes, and leaves the other
status fields, the control register, CMD_LAST and the operand registers. -/
def Obligations.CompletionMakesItsStatusWrites : Prop :=
  ∀ (s : State) (i : Instr), EngineNext s → Pending i s →
    ∃ t, step s = .next t ∧ t.pend = { s.pend with valid := false } ∧
      t.status = { s.status with busy := false, done := true } ∧ t.ctrlIE = s.ctrlIE ∧ t.cmdLast = s.cmdLast ∧
      t.argA = s.argA ∧ t.argB = s.argB ∧ t.dlen = s.dlen ∧ t.elen = s.elen

/-- 41_rs_poly.md R152: every command completes, writes every RAM byte of its destination and no other, and the destinations are GEN[1..E],
REM[0..E-1], BUF[0..D+E-1], or none. The bytes of a command that reads an unwritten byte are free values (log 2, 4), so the
statement says only that they are written. -/
def Obligations.CommandWritesExactlyItsDestination : Prop :=
  (∀ (s : State) (i : Instr), Pending i s →
    ∃ t, exec i s = .next t ∧
      (∀ k, k < (destination i s).2 → (t.mem.read ((destination i s).1 + 4 * k)).isSome = true) ∧
      (∀ a, (∀ k, k < (destination i s).2 → a ≠ (destination i s).1 + 4 * k) → t.mem.read a = s.mem.read a)) ∧
  (∀ s : State,
    destination .genPoly s = (0x804, s.elen.toNat) ∧
    (∀ i ∈ [Instr.rsEncode, .polyMod, .syndrome], destination i s = (0xC00, s.elen.toNat)) ∧
    destination .polyMul s = (0x400, s.dlen.toNat + s.elen.toNat) ∧
    (∀ i ∈ [Instr.nop, .gfMul, .gfExp, .gfLog, .gfInv], (destination i s).2 = 0))

/-! ### The scalar commands -/

/-- 40_gf_field.md R121: the word, acceptance in every idle state, the product as the whole effect, and the rule's corner cases
and example. -/
def Obligations.GfMulFollowsItsRule : Prop :=
  encode .gfMul = 0x00000001#32 ∧
  (∀ s : State, Idle s → exec .gfMul s = .next (acceptedAs 0x00000001#32 0x1#4 s)) ∧
  (∀ s : State, Pending .gfMul s → exec .gfMul s = .next { completed s with result := gfMul s.argA s.argB }) ∧
  (∀ b : Byte, gfMul 0x00#8 b = 0x00#8 ∧ gfMul b 0x00#8 = 0x00#8 ∧ gfMul 0x01#8 b = b) ∧
  gfMul 0x02#8 0x80#8 = 0x1D#8

/-- 40_gf_field.md R122: the word, acceptance in every idle state, EXP[ARG_A] as the whole effect, and the corner cases. -/
def Obligations.GfExpFollowsItsRule : Prop :=
  encode .gfExp = 0x00000002#32 ∧
  (∀ s : State, Idle s → exec .gfExp s = .next (acceptedAs 0x00000002#32 0x2#4 s)) ∧
  (∀ s : State, Pending .gfExp s → exec .gfExp s = .next { completed s with result := expAt s.argA.toNat }) ∧
  expAt 0 = 0x01#8 ∧ expAt 255 = 0x01#8 ∧ expAt 8 = 0x1D#8 ∧ ∀ a : Byte, expAt a.toNat ≠ 0x00#8

/-- 40_gf_field.md R123: the word, the LOG_ZERO check, and at completion the exponent 0..254 whose power of α is ARG_A. -/
def Obligations.GfLogFollowsItsRule : Prop :=
  encode .gfLog = 0x00000003#32 ∧
  (∀ s : State, Idle s → s.argA = 0x00#8 → exec .gfLog s = .next (rejectedAs 0x00000003#32 2#4 s)) ∧
  (∀ s : State, Idle s → s.argA ≠ 0x00#8 → exec .gfLog s = .next (acceptedAs 0x00000003#32 0x3#4 s)) ∧
  (∀ s : State, Pending .gfLog s → s.argA ≠ 0x00#8 →
    ∃ l : Nat, l ≤ 254 ∧ expAt l = s.argA ∧
      exec .gfLog s = .next { completed s with result := BitVec.ofNat 8 l }) ∧
  logAt 0x01#8 = some 0#8 ∧ logAt 0x8E#8 = some 254#8 ∧ logAt 0x1D#8 = some 8#8

/-- 40_gf_field.md R124: the word, the INV_ZERO check, and at completion the inverse of ARG_A. -/
def Obligations.GfInvFollowsItsRule : Prop :=
  encode .gfInv = 0x00000004#32 ∧
  (∀ s : State, Idle s → s.argA = 0x00#8 → exec .gfInv s = .next (rejectedAs 0x00000004#32 3#4 s)) ∧
  (∀ s : State, Idle s → s.argA ≠ 0x00#8 → exec .gfInv s = .next (acceptedAs 0x00000004#32 0x4#4 s)) ∧
  (∀ s : State, Pending .gfInv s → s.argA ≠ 0x00#8 →
    ∃ b : Byte, gfMul s.argA b = 0x01#8 ∧ gfInv b = some s.argA ∧ gfInv s.argA = some b ∧
      exec .gfInv s = .next { completed s with result := b }) ∧
  gfInv 0x01#8 = some 0x01#8 ∧ gfInv 0x02#8 = some 0x8E#8

/-- 40_gf_field.md R125: RESULT is written by the completion of the four scalar commands and by the resets alone, and they write
no RAM byte. -/
def Obligations.ResultIsWrittenOnlyByScalarCommands : Prop :=
  (∀ (s : State) (i : Instr), Idle s → ∃ t, exec i s = .next t ∧ t.result = s.result ∧ t.mem = s.mem) ∧
  (∀ (s : State) (i : Instr), Pending i s → i ∉ [Instr.gfMul, .gfExp, .gfLog, .gfInv] →
    ∃ t, exec i s = .next t ∧ t.result = s.result) ∧
  (∀ (s : State) (i : Instr), Pending i s → i ∈ [Instr.gfMul, .gfExp, .gfLog, .gfInv] →
    ∃ t, exec i s = .next t ∧ t.mem = s.mem) ∧
  (∀ s t : State, s.status.busy = s.pend.valid → step s = .next t → t.result ≠ s.result →
    (∃ i ∈ [Instr.gfMul, .gfExp, .gfLog, .gfInv], EngineNext s ∧ Pending i s) ∨ Next .rst s ∨
      ∃ v : Word, Next (.host (.write 0x004 4 v)) s ∧ v.getLsbD 1 = true) ∧
  (∀ (s : State) (v : Word), Next (.host (.write 0x004 4 v)) s → v.getLsbD 1 = true →
    ∃ t, step s = .next t ∧ t.result = 0x00#8) ∧
  (∀ s : State, Next .rst s → ∃ t, step s = .next t ∧ t.result = 0x00#8) ∧
  (∀ s : State, Next (.host (.read 0x018 4)) s → s.status.busy = false →
    ∃ (t : State) (v : Word), step s = .next t ∧ t.rdata = some v ∧ v.toNat = s.result.toNat)

/-! ### NOP and the polynomial commands -/

/-- 41_rs_poly.md R143: the word, acceptance in every idle state, nothing written at completion but the status, and the illegal
neighbour. The run from reset is the rule's example in the model's form: that the placed word is the next CMD write (log 8) and that
the engine moves when no input is left (log 1) are the model's choices. -/
def Obligations.NopFollowsItsRule : Prop :=
  encode .nop = 0x00000000#32 ∧
  (∀ s : State, Idle s → exec .nop s = .next (acceptedAs 0x00000000#32 0x0#4 s)) ∧
  (∀ s : State, Pending .nop s → exec .nop s = .next (completed s)) ∧
  (∃ why, decode 0x00000010#32 = .illegal why) ∧
  Host.Core.run core 2 (State.reset.withFetchWord 32 0x00000000) =
    .next { State.reset with status := { State.reset.status with done := true } } ∧
  ({ State.reset.status with done := true } : Status).word = 0x00000002#32

/-- 41_rs_poly.md R144: the word, the BAD_ELEN check whatever DLEN is, at completion GEN[1..E] and no other byte, and the
coefficients written are those of the product of (x ⊕ EXP[j]), j < E. -/
def Obligations.GenPolyFollowsItsRule : Prop :=
  encode .genPoly = 0x00000005#32 ∧
  (∀ s : State, Idle s → ¬GoodElen s → exec .genPoly s = .next (rejectedAs 0x00000005#32 4#4 s)) ∧
  (∀ s : State, Idle s → GoodElen s → exec .genPoly s = .next (acceptedAs 0x00000005#32 0x5#4 s)) ∧
  (∀ s : State, Pending .genPoly s → GoodElen s →
    ∃ (gs : List Byte) (m : Memory), genCoeffs s.elen.toNat = 0x01#8 :: gs ∧ gs.length = s.elen.toNat ∧
      exec .genPoly s = .next { completed s with mem := m } ∧ StoredAt 0x804 gs s.mem m) ∧
  genCoeffs 0 = [0x01#8] ∧
  (∀ j : Nat, genCoeffs (j + 1) = convolve (genCoeffs j) [0x01#8, expAt j] (j + 2)) ∧
  genCoeffs 1 = [0x01#8, 0x01#8] ∧ genCoeffs 2 = [0x01#8, 0x03#8, 0x02#8]

/-- 41_rs_poly.md R145: the generators that GEN_POLY writes for every accepted E, with their logarithms. -/
def Obligations.GeneratorsAreTheTabulatedOnes : Prop :=
  generatorTable.map (fun row => row.1.length) = (List.range 30).map (fun e => e + 1) ∧
  ∀ row ∈ generatorTable, row.1.map logAt = row.2.map some ∧
    ∀ s : State, Pending .genPoly s → s.elen.toNat = row.1.length →
      ∃ m : Memory, exec .genPoly s = .next { completed s with mem := m } ∧ StoredAt 0x804 row.1 s.mem m

/-- 41_rs_poly.md R142: the synthetic division of an array of n + E bytes by a monic polynomial of degree E gives the unique
remainder of degree below E. -/
def Obligations.SyntheticDivisionGivesTheUniqueRemainder : Prop :=
  ∀ (g w : List Byte) (n : Nat), w.length = n + g.length →
    ∃ r : List Byte, sdiv (some g) n w = some r ∧ (∃ q, IsDivision g n w q r) ∧
      ∀ q' r' : List Byte, IsDivision g n w q' r' → r' = r

/-- 41_rs_poly.md R146: the word, the checks in order, and at completion REM[0..E-1] = (BUF·x^E) mod g and no other byte; with D = 0
or all-zero data the ECC is zero although GEN is not read. -/
def Obligations.RsEncodeFollowsItsRule : Prop :=
  encode .rsEncode = 0x00000006#32 ∧
  (∀ s : State, Idle s → ¬GoodElen s → exec .rsEncode s = .next (rejectedAs 0x00000006#32 4#4 s)) ∧
  (∀ s : State, Idle s → GoodElen s → 256 < s.dlen.toNat →
    exec .rsEncode s = .next (rejectedAs 0x00000006#32 5#4 s)) ∧
  (∀ s : State, Idle s → GoodElen s → s.dlen.toNat ≤ 256 →
    exec .rsEncode s = .next (acceptedAs 0x00000006#32 0x6#4 s)) ∧
  (∀ (s : State) (b g : List Byte), Pending .rsEncode s → GoodElen s →
    s.mem.readBytes 0x400 s.dlen.toNat = some b → s.mem.readBytes 0x804 s.elen.toNat = some g →
    ∃ (q r : List Byte) (m : Memory),
      IsDivision g s.dlen.toNat (b ++ List.replicate s.elen.toNat 0x00#8) q r ∧
      exec .rsEncode s = .next { completed s with mem := m } ∧ StoredAt 0xC00 r s.mem m) ∧
  (∀ s : State, Pending .rsEncode s → GoodElen s →
    s.mem.readBytes 0x400 s.dlen.toNat = some (List.replicate s.dlen.toNat 0x00#8) →
    ∃ m : Memory, exec .rsEncode s = .next { completed s with mem := m } ∧
      StoredAt 0xC00 (List.replicate s.elen.toNat 0x00#8) s.mem m) ∧
  sdiv (some (genCoeffs 10).tail) 16 ([0x10, 0x20, 0x0C, 0x56, 0x61, 0x80, 0xEC, 0x11, 0xEC, 0x11, 0xEC, 0x11, 0xEC, 0x11,
    0xEC, 0x11] ++ List.replicate 10 0x00#8) = some [0xA5, 0x24, 0xD4, 0xC1, 0xED, 0x36, 0xC7, 0x87, 0x2C, 0x55]

/-- 41_rs_poly.md R147: the word, the checks in order, and at completion REM[0..E-1] = BUF mod g and no other byte; with D ≤ E
the dividend itself, right-aligned, although GEN is not read; with g = x^E the last E coefficients. -/
def Obligations.PolyModFollowsItsRule : Prop :=
  encode .polyMod = 0x00000007#32 ∧
  (∀ s : State, Idle s → ¬GoodElen s → exec .polyMod s = .next (rejectedAs 0x00000007#32 4#4 s)) ∧
  (∀ s : State, Idle s → GoodElen s → 256 < s.dlen.toNat →
    exec .polyMod s = .next (rejectedAs 0x00000007#32 5#4 s)) ∧
  (∀ s : State, Idle s → GoodElen s → s.dlen.toNat ≤ 256 →
    exec .polyMod s = .next (acceptedAs 0x00000007#32 0x7#4 s)) ∧
  (∀ (s : State) (b g : List Byte), Pending .polyMod s → GoodElen s → s.elen.toNat ≤ s.dlen.toNat →
    s.mem.readBytes 0x400 s.dlen.toNat = some b → s.mem.readBytes 0x804 s.elen.toNat = some g →
    ∃ (q r : List Byte) (m : Memory), IsDivision g (s.dlen.toNat - s.elen.toNat) b q r ∧
      exec .polyMod s = .next { completed s with mem := m } ∧ StoredAt 0xC00 r s.mem m) ∧
  (∀ (s : State) (b : List Byte), Pending .polyMod s → GoodElen s → s.dlen.toNat ≤ s.elen.toNat →
    s.mem.readBytes 0x400 s.dlen.toNat = some b →
    ∃ m : Memory, exec .polyMod s = .next { completed s with mem := m } ∧
      StoredAt 0xC00 (List.replicate (s.elen.toNat - s.dlen.toNat) 0x00#8 ++ b) s.mem m) ∧
  (∀ (s : State) (b : List Byte), Pending .polyMod s → GoodElen s → s.elen.toNat ≤ s.dlen.toNat →
    s.mem.readBytes 0x400 s.dlen.toNat = some b →
    s.mem.readBytes 0x804 s.elen.toNat = some (List.replicate s.elen.toNat 0x00#8) →
    ∃ m : Memory, exec .polyMod s = .next { completed s with mem := m } ∧
      StoredAt 0xC00 (b.drop (s.dlen.toNat - s.elen.toNat)) s.mem m) ∧
  sdiv (some [0x03, 0x02]) 1 [0x01, 0x03, 0x02] = some [0x00, 0x00]

/-- 41_rs_poly.md R148: the word, the checks in order, and at completion BUF[0..D+E-1] = the sums of the rule and no other byte; DLEN
stays, BUF[0] stays when D > 0, and D = 0 writes E zero bytes although GEN is not read. -/
def Obligations.PolyMulFollowsItsRule : Prop :=
  encode .polyMul = 0x00000008#32 ∧
  (∀ s : State, Idle s → ¬GoodElen s → exec .polyMul s = .next (rejectedAs 0x00000008#32 4#4 s)) ∧
  (∀ s : State, Idle s → GoodElen s → 256 < s.dlen.toNat + s.elen.toNat →
    exec .polyMul s = .next (rejectedAs 0x00000008#32 5#4 s)) ∧
  (∀ s : State, Idle s → GoodElen s → s.dlen.toNat + s.elen.toNat ≤ 256 →
    exec .polyMul s = .next (acceptedAs 0x00000008#32 0x8#4 s)) ∧
  (∀ (s : State) (b g : List Byte), Pending .polyMul s → GoodElen s →
    s.mem.readBytes 0x400 s.dlen.toNat = some b → s.mem.readBytes 0x804 s.elen.toNat = some g →
    ∃ (p : List Byte) (m : Memory), p.length = s.dlen.toNat + s.elen.toNat ∧
      (∀ j, j < p.length → p.getD j 0#8 =
        ((List.range s.dlen.toNat).filter fun i => decide (i ≤ j ∧ j - i ≤ s.elen.toNat)).foldr
          (fun i acc => gfMul (b.getD i 0#8) ((0x01#8 :: g).getD (j - i) 0#8) ^^^ acc) 0x00#8) ∧
      exec .polyMul s = .next { completed s with mem := m } ∧ StoredAt 0x400 p s.mem m ∧
      (0 < s.dlen.toNat → m.read 0x400 = s.mem.read 0x400)) ∧
  (∀ s : State, Pending .polyMul s → GoodElen s → s.dlen.toNat = 0 →
    ∃ m : Memory, exec .polyMul s = .next { completed s with mem := m } ∧
      StoredAt 0x400 (List.replicate s.elen.toNat 0x00#8) s.mem m) ∧
  convolve [0x12, 0x34, 0x56] [0x01, 0x03, 0x02] 5 = [0x12, 0x02, 0x2E, 0x92, 0xAC]

/-- 41_rs_poly.md R149: the word, the checks in order, and at completion REM[j] = Σ BUF[i]·EXP[(j·(D-1-i)) mod 255] and no other
byte; GEN is not read. -/
def Obligations.SyndromeFollowsItsRule : Prop :=
  encode .syndrome = 0x00000009#32 ∧
  (∀ s : State, Idle s → ¬GoodElen s → exec .syndrome s = .next (rejectedAs 0x00000009#32 4#4 s)) ∧
  (∀ s : State, Idle s → GoodElen s → 256 < s.dlen.toNat →
    exec .syndrome s = .next (rejectedAs 0x00000009#32 5#4 s)) ∧
  (∀ s : State, Idle s → GoodElen s → s.dlen.toNat ≤ 256 →
    exec .syndrome s = .next (acceptedAs 0x00000009#32 0x9#4 s)) ∧
  (∀ (s : State) (b : List Byte), Pending .syndrome s → GoodElen s → s.mem.readBytes 0x400 s.dlen.toNat = some b →
    ∃ (v : List Byte) (m : Memory), v.length = s.elen.toNat ∧
      (∀ j, j < v.length → v.getD j 0#8 = (List.range s.dlen.toNat).foldr
        (fun i acc => gfMul (b.getD i 0#8) (expAt (j * (s.dlen.toNat - 1 - i) % 255)) ^^^ acc) 0x00#8) ∧
      exec .syndrome s = .next { completed s with mem := m } ∧ StoredAt 0xC00 v s.mem m) ∧
  (List.range 3).map (fun j => evalAt (expAt j) [0x01, 0x00]) = [0x01, 0x02, 0x04]

/-! ### Properties of the commands (41_rs_poly.md R150) -/

/-- R150 item 1: after RS_ENCODE, POLY_MOD on the data followed by the ECC, with the same GEN and E, gives zeros. -/
def Obligations.EncodedBlockIsDivisible : Prop :=
  ∀ (s t u : State) (b g : List Byte), Pending .rsEncode s → GoodElen s → s.dlen.toNat + s.elen.toNat ≤ 256 →
    s.mem.readBytes 0x400 s.dlen.toNat = some b → s.mem.readBytes 0x804 s.elen.toNat = some g →
    exec .rsEncode s = .next t →
    Pending .polyMod u → u.elen = s.elen → u.dlen.toNat = s.dlen.toNat + s.elen.toNat →
    (∀ i, i < s.dlen.toNat → u.mem.read (0x400 + 4 * i) = t.mem.read (0x400 + 4 * i)) →
    (∀ j, j < s.elen.toNat → u.mem.read (0x400 + 4 * (s.dlen.toNat + j)) = t.mem.read (0xC00 + 4 * j)) →
    (∀ k, 1 ≤ k → k ≤ s.elen.toNat → u.mem.read (0x800 + 4 * k) = t.mem.read (0x800 + 4 * k)) →
    ∃ v, exec .polyMod u = .next v ∧ ∀ j, j < u.elen.toNat → v.mem.read (0xC00 + 4 * j) = some 0x00#8

/-- R150 item 2: RS_ENCODE gives what POLY_MOD gives on the data followed by E zero bytes. -/
def Obligations.EncodingIsTheRemainderOfTheShiftedData : Prop :=
  ∀ (s t u v : State) (b g : List Byte), Pending .rsEncode s → GoodElen s → s.dlen.toNat + s.elen.toNat ≤ 256 →
    s.mem.readBytes 0x400 s.dlen.toNat = some b → s.mem.readBytes 0x804 s.elen.toNat = some g →
    Pending .polyMod u → u.elen = s.elen → u.dlen.toNat = s.dlen.toNat + s.elen.toNat →
    u.mem.readBytes 0x400 u.dlen.toNat = some (b ++ List.replicate s.elen.toNat 0x00#8) →
    u.mem.readBytes 0x804 u.elen.toNat = some g →
    exec .rsEncode s = .next t → exec .polyMod u = .next v →
    ∀ j, j < s.elen.toNat → v.mem.read (0xC00 + 4 * j) = t.mem.read (0xC00 + 4 * j)

/-- R150 item 3: after POLY_MUL, POLY_MOD with DLEN = D + E and the same GEN gives zeros. -/
def Obligations.ProductIsDivisible : Prop :=
  ∀ (s t u : State) (b g : List Byte), Pending .polyMul s → GoodElen s → s.dlen.toNat + s.elen.toNat ≤ 256 →
    s.mem.readBytes 0x400 s.dlen.toNat = some b → s.mem.readBytes 0x804 s.elen.toNat = some g →
    exec .polyMul s = .next t →
    Pending .polyMod u → u.elen = s.elen → u.dlen.toNat = s.dlen.toNat + s.elen.toNat → u.mem = t.mem →
    ∃ v, exec .polyMod u = .next v ∧ ∀ j, j < u.elen.toNat → v.mem.read (0xC00 + 4 * j) = some 0x00#8

/-- R150 item 4: a multiple of the generator of degree E' ≥ E has syndromes 0. -/
def Obligations.MultipleOfGeneratorHasZeroSyndromes : Prop :=
  ∀ (s : State) (q : List Byte) (e : Nat), Pending .syndrome s → GoodElen s → s.elen.toNat ≤ e → e ≤ 30 →
    q.length + e = s.dlen.toNat →
    s.mem.readBytes 0x400 s.dlen.toNat = some (convolve q (genCoeffs e) (q.length + e)) →
    ∃ v, exec .syndrome s = .next v ∧ ∀ j, j < s.elen.toNat → v.mem.read (0xC00 + 4 * j) = some 0x00#8

/-- R150 item 6: a command is a function of its own operands alone, which are those of 30_encoding.md R92: two pending states that
agree on them, the RAM bytes among them written, get the same RESULT, if the command is a scalar one, and the same destination bytes,
whatever else differs. GF_LOG and GF_INV complete only with ARG_A not 0x00 (60_exceptions.md R183). -/
def Obligations.CommandIsAFunctionOfItsOperands : Prop :=
  ∀ (i : Instr) (s s' t t' : State), Pending i s → Pending i s' →
    (i ∈ [Instr.gfMul, .gfExp, .gfLog, .gfInv] → s'.argA = s.argA) →
    (i = .gfMul → s'.argB = s.argB) →
    (i ∈ [Instr.gfLog, .gfInv] → s.argA ≠ 0x00#8) →
    (i ∈ [Instr.genPoly, .rsEncode, .polyMod, .polyMul, .syndrome] → s'.elen = s.elen) →
    (i ∈ [Instr.rsEncode, .polyMod, .polyMul, .syndrome] → s'.dlen = s.dlen ∧
      ∃ b : List Byte, s.mem.readBytes 0x400 s.dlen.toNat = some b ∧ s'.mem.readBytes 0x400 s.dlen.toNat = some b) →
    (i ∈ [Instr.rsEncode, .polyMod, .polyMul] →
      ∃ g : List Byte, s.mem.readBytes 0x804 s.elen.toNat = some g ∧ s'.mem.readBytes 0x804 s.elen.toNat = some g) →
    exec i s = .next t → exec i s' = .next t' →
    (i ∈ [Instr.gfMul, .gfExp, .gfLog, .gfInv] → t'.result = t.result) ∧
    ∀ k, k < (destination i s).2 →
      t'.mem.read ((destination i s).1 + 4 * k) = t.mem.read ((destination i s).1 + 4 * k)

/-! ### The field -/

/-- 40_gf_field.md R118: the field laws. -/
def Obligations.FieldLawsHold : Prop :=
  ∀ a b c : Byte,
    a ^^^ b = b ^^^ a ∧
    gfMul a b = gfMul b a ∧
    gfMul (gfMul a b) c = gfMul a (gfMul b c) ∧
    gfMul a (b ^^^ c) = gfMul a b ^^^ gfMul a c ∧
    gfMul a 0x01#8 = a ∧
    gfMul a 0x00#8 = 0x00#8 ∧
    (gfMul a b = 0x00#8 → a = 0x00#8 ∨ b = 0x00#8)

/-- 40_gf_field.md R113: EXP holds the powers of α = 0x02, wraps at 255, and its first 255 entries are the nonzero bytes, each
once. -/
def Obligations.ExpHoldsThePowersOfAlpha : Prop :=
  expTable.length = 256 ∧ expAt 0 = 0x01#8 ∧ (∀ i, i < 255 → expAt (i + 1) = gfMul (expAt i) 0x02#8) ∧
  expAt 255 = 0x01#8 ∧ (∀ i, i < 255 → expAt i ≠ 0x00#8) ∧
  (∀ a : Byte, a ≠ 0x00#8 → ∃ i, i < 255 ∧ expAt i = a ∧ ∀ j, j < 255 → expAt j = a → j = i)

/-- 40_gf_field.md R114: LOG is the inverse of EXP on the nonzero bytes, and LOG[0] does not exist. -/
def Obligations.LogInvertsExp : Prop :=
  logAt 0x00#8 = none ∧
  ∀ a : Byte, a ≠ 0x00#8 → ∃ l : Byte, logAt a = some l ∧ l.toNat ≤ 254 ∧ expAt l.toNat = a ∧
    ∀ j, j ≤ 254 → expAt j = a → j = l.toNat

/-- 40_gf_field.md R115: the table formula is exact for nonzero operands, and a zero operand gives 0. -/
def Obligations.MultiplicationByTablesIsExact : Prop :=
  (∀ a b : Byte, a ≠ 0x00#8 → b ≠ 0x00#8 →
    ∃ x y : Byte, logAt a = some x ∧ logAt b = some y ∧ gfMul a b = expAt ((x.toNat + y.toNat) % 255)) ∧
  (∀ a b : Byte, a = 0x00#8 ∨ b = 0x00#8 → gfMul a b = 0x00#8)

/-- 40_gf_field.md R116: the inverse of a nonzero byte is the unique one; 0x00 has none. -/
def Obligations.InverseIsTheUniqueOne : Prop :=
  (∀ a : Byte, a ≠ 0x00#8 → ∃ b l : Byte, logAt a = some l ∧ b = expAt ((255 - l.toNat) % 255) ∧
    gfInv a = some b ∧ gfMul a b = 0x01#8 ∧ ∀ c : Byte, gfMul a c = 0x01#8 → c = b) ∧
  gfInv 0x01#8 = some 0x01#8 ∧ (∀ c : Byte, gfMul 0x00#8 c ≠ 0x01#8) ∧ gfInv 0x00#8 = none

/-- 40_gf_field.md R117: exponents add modulo 255, and powers of a power multiply them. -/
def Obligations.ExponentsAddModulo255 : Prop :=
  (∀ i j, i < 255 → j < 255 → gfMul (expAt i) (expAt j) = expAt ((i + j) % 255)) ∧
  expAt 255 = 0x01#8 ∧
  (∀ j n, j < 255 → Nat.iterate (gfMul (expAt j)) n 0x01#8 = expAt (j * n % 255)) ∧
  (∀ a b x y : Byte, logAt a = some x → logAt b = some y → x.toNat + y.toNat ≤ 508)

/-! ### The registers and the port -/

/-- 10_state.md R21: ID reads 0x5253011D in every state, and a write to it only sets ACCERR. -/
def Obligations.IdRegisterFollowsItsRule : Prop :=
  (∀ s : State, Next (.host (.read 0x000 4)) s →
    step s = .next { served s with rdata := some 0x5253011D#32 }) ∧
  (∀ (s : State) (v : Word), Next (.host (.write 0x000 4 v)) s → step s = .next (flagged (served s)))

/-- 10_state.md R22 and 70_reset_and_hazards.md R212: CTRL reads IE in bit 0 and 0 elsewhere in every state; a write with bit 1
clear sets IE to bit 0 and does nothing else, whatever BUSY is. -/
def Obligations.CtrlRegisterReadsAndWritesIe : Prop :=
  (∀ s : State, Next (.host (.read 0x004 4)) s →
    step s = .next { served s with rdata := some (if s.ctrlIE then 1#32 else 0#32) }) ∧
  (∀ (s : State) (v : Word), Next (.host (.write 0x004 4 v)) s → v.getLsbD 1 = false →
    step s = .next { served s with ctrlIE := v.getLsbD 0 })

/-- 10_state.md R23: STATUS reads its fields at their bits in every state, and a write clears DONE, ERR with ECODE, and
ACCERR where the word has a 1, whatever BUSY is; after reset it is 0. -/
def Obligations.StatusRegisterFollowsItsRule : Prop :=
  (∀ s : State, Next (.host (.read 0x008 4)) s →
    ∃ v : Word, step s = .next { served s with rdata := some v } ∧
      v.toNat = s.status.busy.toNat + 2 * s.status.done.toNat + 4 * s.status.err.toNat
        + 8 * s.status.accerr.toNat + 256 * s.status.ecode.toNat) ∧
  (∀ (s : State) (v : Word), Next (.host (.write 0x008 4 v)) s →
    step s = .next { served s with
      status := {
        busy := s.status.busy
        done := if v.getLsbD 1 then false else s.status.done
        err := if v.getLsbD 2 then false else s.status.err
        accerr := if v.getLsbD 3 then false else s.status.accerr
        ecode := if v.getLsbD 2 then 0#4 else s.status.ecode } }) ∧
  State.reset.status.word = 0x00000000#32

/-- 10_state.md R28: CMD reads CMD_LAST in every state; a CMD write while BUSY = 0 makes it the written word, accepted or not,
and one while BUSY = 1 leaves it. -/
def Obligations.CmdReadsBackTheLastIssuedWord : Prop :=
  (∀ s : State, Next (.host (.read 0x00C 4)) s →
    step s = .next { served s with rdata := some s.cmdLast }) ∧
  (∀ (s : State) (cw : Word), Next (.host (.write 0x00C 4 cw)) s → Idle s →
    ∃ t, step s = .next t ∧ t.cmdLast = cw) ∧
  (∀ (s : State) (cw : Word), Next (.host (.write 0x00C 4 cw)) s → s.status.busy = true →
    ∃ t, step s = .next t ∧ t.cmdLast = s.cmdLast) ∧
  State.reset.cmdLast = 0x00000000#32

/-- 10_state.md R29, R30, R32, R33: while BUSY = 0 the operand registers take the low bits of the written word and read them
back, zero-extended, and no command changes them. -/
def Obligations.OperandRegistersFollowTheirRules : Prop :=
  (∀ (s : State) (v : Word), s.status.busy = false →
    (Next (.host (.write 0x010 4 v)) s → step s = .next { served s with argA := BitVec.ofNat 8 (v.toNat % 256) }) ∧
    (Next (.host (.write 0x014 4 v)) s → step s = .next { served s with argB := BitVec.ofNat 8 (v.toNat % 256) }) ∧
    (Next (.host (.write 0x01C 4 v)) s → step s = .next { served s with dlen := BitVec.ofNat 9 (v.toNat % 512) }) ∧
    (Next (.host (.write 0x020 4 v)) s → step s = .next { served s with elen := BitVec.ofNat 5 (v.toNat % 32) })) ∧
  (∀ s : State, s.status.busy = false →
    (Next (.host (.read 0x010 4)) s →
      step s = .next { served s with rdata := some (BitVec.ofNat 32 s.argA.toNat) }) ∧
    (Next (.host (.read 0x014 4)) s →
      step s = .next { served s with rdata := some (BitVec.ofNat 32 s.argB.toNat) }) ∧
    (Next (.host (.read 0x01C 4)) s →
      step s = .next { served s with rdata := some (BitVec.ofNat 32 s.dlen.toNat) }) ∧
    (Next (.host (.read 0x020 4)) s →
      step s = .next { served s with rdata := some (BitVec.ofNat 32 s.elen.toNat) })) ∧
  (∀ (i : Instr) (s : State), ∃ t, exec i s = .next t ∧
    t.argA = s.argA ∧ t.argB = s.argB ∧ t.dlen = s.dlen ∧ t.elen = s.elen) ∧
  State.reset.argA = 0x00#8 ∧ State.reset.argB = 0x00#8 ∧ State.reset.dlen.toNat = 0 ∧ State.reset.elen.toNat = 0

/-- 20_memory.md R64: while BUSY = 0 a write to BUF[i], or to GEN[k] with k ≥ 1, stores bits 7:0 and changes no other byte, and a
read of a written byte of BUF, GEN[k] or REM returns it zero-extended. -/
def Obligations.RamBytesAreStoredAndReadBack : Prop :=
  (∀ (s : State) (v : Word) (off : Nat), s.status.busy = false →
    ((∃ i, i < 256 ∧ off = 0x400 + 4 * i) ∨ (∃ k, 1 ≤ k ∧ k ≤ 30 ∧ off = 0x800 + 4 * k)) →
    Next (.host (.write off 4 v)) s →
    ∃ m : Memory, step s = .next { served s with mem := m } ∧
      m.read off = some (BitVec.ofNat 8 (v.toNat % 256)) ∧ ∀ a, a ≠ off → m.read a = s.mem.read a) ∧
  (∀ (s : State) (off : Nat) (b : Byte), s.status.busy = false →
    ((∃ i, i < 256 ∧ off = 0x400 + 4 * i) ∨ (∃ k, 1 ≤ k ∧ k ≤ 30 ∧ off = 0x800 + 4 * k) ∨
      (∃ j, j < 30 ∧ off = 0xC00 + 4 * j)) →
    Next (.host (.read off 4)) s → s.mem.read off = some b →
    step s = .next { served s with rdata := some (BitVec.ofNat 32 b.toNat) })

/-- 10_state.md R36, its hardwired byte: GEN[0] reads 0x01 while BUSY = 0, and a write to it only sets ACCERR. -/
def Obligations.GenZeroIsHardwired : Prop :=
  (∀ s : State, s.status.busy = false → Next (.host (.read 0x800 4)) s →
    step s = .next { served s with rdata := some 0x00000001#32 }) ∧
  (∀ (s : State) (v : Word), Next (.host (.write 0x800 4 v)) s → step s = .next (flagged (served s)))

/-- 20_memory.md R65: an unmapped offset reads 0 and sets ACCERR, and a write only sets ACCERR, whatever BUSY is. -/
def Obligations.UnmappedAccessOnlySetsAccerr : Prop :=
  ∀ (s : State) (off : Nat), UnmappedOff off →
    (Next (.host (.read off 4)) s → step s = .next { flagged (served s) with rdata := some 0x00000000#32 }) ∧
    (∀ v : Word, Next (.host (.write off 4 v)) s → step s = .next (flagged (served s)))

/-- 20_memory.md R70: a write to ID, RESULT, GEN[0] or REM changes nothing but ACCERR; a write to STATUS never sets ACCERR. -/
def Obligations.ReadOnlyWriteOnlySetsAccerr : Prop :=
  (∀ (s : State) (off : Nat) (v : Word), ReadOnlyOff off → Next (.host (.write off 4 v)) s →
    step s = .next (flagged (served s))) ∧
  (∀ (s : State) (v : Word), Next (.host (.write 0x008 4 v)) s → s.status.accerr = false →
    ∃ t, step s = .next t ∧ t.status.accerr = false)

/-- 20_memory.md R79: accesses while BUSY = 1. -/
def Obligations.AccessWhileBusyFollowsItsRule : Prop :=
  ∀ s : State, s.status.busy = true →
    (∀ off, BlockedOff off → Next (.host (.read off 4)) s →
      step s = .next { flagged (served s) with rdata := some 0x00000000#32 }) ∧
    (∀ (off : Nat) (v : Word), BlockedOff off ∨ off = 0x000 ∨ off = 0x00C → Next (.host (.write off 4 v)) s →
      step s = .next (flagged (served s))) ∧
    (∀ off ∈ [0x000, 0x004, 0x008, 0x00C], Next (.host (.read off 4)) s →
      ∃ v : Word, step s = .next { served s with rdata := some v } ∧
        v = if off = 0x000 then 0x5253011D#32 else if off = 0x004 then ctrlWord s.ctrlIE
          else if off = 0x008 then s.status.word else s.cmdLast) ∧
    (∀ v : Word, Next (.host (.write 0x004 4 v)) s → v.getLsbD 1 = false →
      step s = .next { served s with ctrlIE := v.getLsbD 0 }) ∧
    (∀ v : Word, Next (.host (.write 0x004 4 v)) s → v.getLsbD 1 = true →
      ∃ t, step s = .next t ∧ t.status.word = 0x00000000#32 ∧ t.ctrlIE = false ∧ t.cmdLast = 0x00000000#32 ∧
        t.argA = 0x00#8 ∧ t.argB = 0x00#8 ∧ t.result = 0x00#8 ∧ t.dlen.toNat = 0 ∧ t.elen.toNat = 0 ∧
        t.pend.valid = false) ∧
    (∀ v : Word, Next (.host (.write 0x008 4 v)) s →
      step s = .next { served s with status := s.status.clearBits v }) ∧
    (∀ off, UnmappedOff off → Next (.host (.read off 4)) s →
      step s = .next { flagged (served s) with rdata := some 0x00000000#32 }) ∧
    (∀ (off : Nat) (v : Word), UnmappedOff off → Next (.host (.write off 4 v)) s →
      step s = .next (flagged (served s)))

/-- 20_memory.md R61: a call whose size is not 4, whose address is no word address or is outside the window is refused, and every
other is served. -/
def Obligations.OnlyWholeWordAccessesAreTransactions : Prop :=
  ∀ (s : State) (addr n : Nat) (v : Word),
    ((n ≠ 4 ∨ addr % 4 ≠ 0 ∨ 0x1000 ≤ addr) →
      (Next (.host (.read addr n)) s → step s = .refused .noTransaction) ∧
      (Next (.host (.write addr n v)) s → step s = .refused .noTransaction)) ∧
    (n = 4 → addr % 4 = 0 → addr < 0x1000 →
      (Next (.host (.read addr n)) s → ∃ t, step s = .next t) ∧
      (Next (.host (.write addr n v)) s → ∃ t, step s = .next t))

/-- 10_state.md R27 and 60_exceptions.md R187: what sets ACCERR and what clears it. -/
def Obligations.AccerrHasExactlyItsCauses : Prop :=
  ∀ s t : State, step s = .next t →
    (∀ off, Next (.host (.read off 4)) s →
      (t.status.accerr = true ↔
        s.status.accerr = true ∨ UnmappedOff off ∨ (s.status.busy = true ∧ BlockedOff off))) ∧
    (∀ (off : Nat) (v : Word), Next (.host (.write off 4 v)) s →
      (t.status.accerr = true ↔
        UnmappedOff off ∨ ReadOnlyOff off ∨ (s.status.busy = true ∧ (BlockedOff off ∨ off = 0x00C)) ∨
          (s.status.accerr = true ∧ ¬(off = 0x008 ∧ v.getLsbD 3 = true) ∧ ¬(off = 0x004 ∧ v.getLsbD 1 = true)))) ∧
    (EngineNext s → t.status.accerr = s.status.accerr) ∧
    (Next .rst s → t.status.accerr = false)

/-- 20_memory.md R69: a read that is neither unmapped nor blocked changes nothing but the read data (and, for an unwritten byte, the
model's counter of free values, log 2). -/
def Obligations.OtherReadsChangeNothing : Prop :=
  ∀ (s : State) (off : Nat), Next (.host (.read off 4)) s → off % 4 = 0 → off < 0x1000 → ¬UnmappedOff off →
    ¬(s.status.busy = true ∧ BlockedOff off) →
    ∃ (v : Word) (n : Nat), step s = .next { served s with rdata := some v, fresh := n } ∧
      (n ≠ s.fresh → isRamOffset off = true ∧ s.mem.read off = none)

/-- 20_memory.md R62: the map and its inverse, over every word offset of the window and every location, and the window at BASE
(log 14). -/
def Obligations.AddressMapIsABijection : Prop :=
  (∀ off : Nat, off % 4 = 0 → off < 0x1000 → offsetOf (locOf off) = off ∧ (locOf off).wf = true) ∧
  (∀ l : Loc, l.wf = true → locOf (offsetOf l) = l ∧ offsetOf l % 4 = 0 ∧ offsetOf l < 0x1000) ∧
  (∀ off : Nat, off < 0x1000 → portOffset (hostAddress off) = some off)

/-! ### Interrupt and resets -/

/-- 60_exceptions.md R188, with the clearing of its causes (R189) as steps. -/
def Obligations.IrqFollowsItsCauses : Prop :=
  (∀ s : State, irq s = true ↔ s.ctrlIE = true ∧ (s.status.done = true ∨ s.status.err = true)) ∧
  (∀ (s : State) (v : Word), Next (.host (.write 0x008 4 v)) s → v.getLsbD 1 = true → v.getLsbD 2 = true →
    ∃ t, step s = .next t ∧ irq t = false) ∧
  (∀ (s : State) (cw : Word), Next (.host (.write 0x00C 4 cw)) s → Idle s →
    ∃ t, step s = .next t ∧ (irq t = true ↔ s.ctrlIE = true ∧ checkRule cw s ≠ 0#4)) ∧
  (∀ (s : State) (i : Instr), EngineNext s → Pending i s → ∃ t, step s = .next t ∧ irq t = s.ctrlIE) ∧
  (∀ (s : State) (v : Word), Next (.host (.write 0x004 4 v)) s → v.getLsbD 1 = false →
    ∃ t, step s = .next t ∧ irq t = (v.getLsbD 0 && (s.status.done || s.status.err))) ∧
  (∀ (s : State) (v : Word), Next (.host (.write 0x004 4 v)) s → v.getLsbD 1 = true →
    ∃ t, step s = .next t ∧ irq t = false)

/-- 70_reset_and_hazards.md R211: a hardware reset of any state, at the registers' values, with every RAM byte unwritten, and GEN[0]
reading 0x01 in the next step. That the
inputs to come are kept (log 13) and that the counter of free values does not fall (log 3) are the model's choices, not R211's. -/
def Obligations.HardwareResetFollowsItsRule : Prop :=
  ∀ s : State, Next .rst s → ∃ t, step s = .next t ∧
    t.ctrlIE = false ∧ t.status.word = 0x00000000#32 ∧ t.cmdLast = 0x00000000#32 ∧ t.argA = 0x00#8 ∧
    t.argB = 0x00#8 ∧ t.result = 0x00#8 ∧ t.dlen.toNat = 0 ∧ t.elen.toNat = 0 ∧ t.pend.valid = false ∧
    irq t = false ∧ (∀ a, t.mem.read a = none) ∧ t.inputs = s.inputs.tail ∧ s.fresh ≤ t.fresh ∧
    step { t with inputs := [.host (.read 0x800 4)] } = .next { t with inputs := [], rdata := some 0x00000001#32 }

/-- 70_reset_and_hazards.md R212, R213: a CTRL write with bit 1 set, whatever its bit 0: the registers, and the RAM bytes unchanged
but for the destination of a pending command, which becomes unwritten; with bit 1 clear the write only sets IE. -/
def Obligations.SoftResetFollowsItsRule : Prop :=
  ∀ (s : State) (v : Word), Next (.host (.write 0x004 4 v)) s → v.getLsbD 1 = true →
    ∃ m : Memory,
      step s = .next { served s with
        ctrlIE := false
        status := { busy := false, done := false, err := false, accerr := false, ecode := 0#4 }
        cmdLast := 0x00000000#32
        argA := 0x00#8
        argB := 0x00#8
        result := 0x00#8
        dlen := 0#9
        elen := 0#5
        pend := { s.pend with valid := false }
        mem := m } ∧
      (s.pend.valid = false → m = s.mem) ∧
      (∀ i, Pending i s → ∀ a,
        ((∃ k, k < (destination i s).2 ∧ a = (destination i s).1 + 4 * k) → m.read a = none) ∧
        ((¬∃ k, k < (destination i s).2 ∧ a = (destination i s).1 + 4 * k) → m.read a = s.mem.read a)) ∧
      (∀ u : Word, u.getLsbD 1 = false →
        step { s with inputs := .host (.write 0x004 4 u) :: s.inputs.tail } =
          .next { served s with ctrlIE := u.getLsbD 0 })

/-- 10_state.md R44, the values the spec gives for a hardware reset. -/
def Obligations.ResetStateHasTheRuleValues : Prop :=
  State.reset.ctrlIE = false ∧ State.reset.status.word = 0x00000000#32 ∧ State.reset.cmdLast = 0x00000000#32 ∧
  State.reset.argA = 0x00#8 ∧ State.reset.argB = 0x00#8 ∧ State.reset.result = 0x00#8 ∧
  State.reset.dlen.toNat = 0 ∧ State.reset.elen.toNat = 0 ∧ State.reset.pend.valid = false ∧
  (∀ a, State.reset.mem.read a = none) ∧ irq State.reset = false

/-- 10_state.md R43: what makes a byte written, and what makes it unwritten again. -/
def Obligations.BytesBecomeWrittenAndUnwrittenOnlyByRule : Prop :=
  ∀ (s t : State) (a : Nat), SoundState s → step s = .next t →
    ((s.mem.read a).isSome = true → t.mem.read a = none →
      Next .rst s ∨ ∃ (v : Word) (i : Instr) (k : Nat), Next (.host (.write 0x004 4 v)) s ∧ v.getLsbD 1 = true ∧
        Pending i s ∧ k < (destination i s).2 ∧ a = (destination i s).1 + 4 * k) ∧
    (s.mem.read a = none → (t.mem.read a).isSome = true →
      (∃ v : Word, Next (.host (.write a 4 v)) s ∧ s.status.busy = false) ∨
      ∃ (i : Instr) (k : Nat), EngineNext s ∧ Pending i s ∧ k < (destination i s).2 ∧
        a = (destination i s).1 + 4 * k)

/-! ### Invariants, safety, liveness -/

/-- The reset state has the invariant. -/
def Obligations.ResetStateHasTheInvariant : Prop := SoundState State.reset

/-- Every step keeps the invariant: the memory's canonical form and its place in the map, 10_state.md R24 (BUSY and PEND.valid, BUSY
and DONE and ERR), R26 (ECODE and ERR), 60_exceptions.md R181 (no code above 5), R182 and R183 (a pending command passed its checks,
and still passes them). -/
def Obligations.StepKeepsTheInvariant : Prop :=
  ∀ s t : State, SoundState s → step s = .next t → SoundState t

/-- 20_memory.md R60, 60_exceptions.md R180 and R186: from every state with the invariant, whatever transactions of the port, engine
slots and resets come, no step stops. -/
def Obligations.NothingStopsTheBlock : Prop :=
  ∀ (k : Nat) (s : State), SoundState s → inputsWf s = true → Unstopped k s

/-- 70_reset_and_hazards.md R222 and 60_exceptions.md R186: a pending command completes unless a reset intervenes. R222 fixes no
latency: the bound of one step more than there are inputs is the model's, since it lets the engine move when no input is left
(log 1). -/
def Obligations.PendingCommandCompletes : Prop :=
  ∀ s : State, SoundState s → s.pend.valid = true → inputsWf s = true → (∀ x ∈ s.inputs, inputResets x = false) →
    ∃ (k : Nat) (t : State), k ≤ s.inputs.length + 1 ∧ Host.Core.run core k s = .next t ∧
      t.status.busy = false ∧ t.status.done = true ∧ t.pend.valid = false

/-- The model's own representation of the RAMs (log 22), no rule of the spec: two memories in the canonical form that read alike
everywhere are equal. -/
def Obligations.CanonicalMemoriesWithEqualReadsAreEqual : Prop :=
  ∀ m m' : Memory, m.wf → m'.wf → (∀ a, m.read a = m'.read a) → m = m'

/-! ### Host programs -/

/-- 30_encoding.md R95, R96: a WR line is one write transaction of the block, a RD line one read, a branch, a jump and a HALT leave the
block alone; and WAIT (R96) leaves its loop after a STATUS read exactly when that read had BUSY = 0. The offset is `HostLoc.off`, the
model's choice for an index that does not exist (log 26), and a variable as a WR value is the model's reading (log 20). -/
def Obligations.HostLinesAreBusOperations : Prop :=
  (∀ (p : HostProgram) (h : HostCpu) (s : State) (lab : Option String) (l : HostLoc) (v : HostValue) (w : Word),
    p[h.line]? = some (lab, .wr l v) → v.word h = some w →
    hostLine p h s = ({ h with line := h.line + 1 },
      step { s with inputs := .host (.write l.off 4 w) :: s.inputs })) ∧
  (∀ (p : HostProgram) (h : HostCpu) (s t : State) (lab : Option String) (l : HostLoc) (x : String) (w : Word),
    p[h.line]? = some (lab, .rd l x) →
    step { s with inputs := .host (.read l.off 4) :: s.inputs } = .next t → t.rdata = some w →
    hostLine p h s = ({ h with line := h.line + 1, vars := (x, w) :: h.vars }, .next t)) ∧
  (∀ (p : HostProgram) (h : HostCpu) (s : State) (lab : Option String) (x : String) (f : Option StatusField)
      (v : Word) (label : String),
    (p[h.line]? = some (lab, .bne x f v label) ∨ p[h.line]? = some (lab, .beq x f v label) ∨
      p[h.line]? = some (lab, .jmp label) ∨ p[h.line]? = some (lab, .halt)) →
    (hostLine p h s).2 = .next s) ∧
  (∀ (s : State) (w x : String), ∃ (h h' : HostCpu) (t : State),
    hostLine (pseudoWait w x) { line := 0, vars := [], halted := false } s = (h, .next t) ∧
    hostLine (pseudoWait w x) h t = (h', .next t) ∧ h'.halted = false ∧
    (h'.line = 0 ↔ s.status.busy = true) ∧ (h'.line = 2 ↔ s.status.busy = false))
end

