-- ==== Sys2Proof/Laws/AddressMap.lean ====
section
/-! SUPPORT. The address map, read once: the location of every RAM offset and of every unmapped one, and the cases of a word
offset of the window (20_memory.md R62). -/

namespace Sys2Proof.Machine

theorem locOf_bufAddr {i : Nat} (h : i < 256) : locOf (bufAddr i) = .buf i := by
  show locOf (0x400 + 4 * i) = _
  unfold locOf
  iterate 9 rw [if_neg (by omega)]
  rw [if_pos (by omega)]
  congr 1
  simp only [bufBase]
  omega

theorem locOf_genAddr {k : Nat} (h : k < 31) : locOf (genAddr k) = .gen k := by
  show locOf (0x800 + 4 * k) = _
  unfold locOf
  iterate 10 rw [if_neg (by omega)]
  rw [if_pos (by omega)]
  congr 1
  simp only [genBase]
  omega

theorem locOf_remAddr {j : Nat} (h : j < 30) : locOf (remAddr j) = .rem j := by
  show locOf (0xC00 + 4 * j) = _
  unfold locOf
  iterate 11 rw [if_neg (by omega)]
  rw [if_pos (by omega)]
  congr 1
  simp only [remBase]
  omega

theorem locOf_unmapped {off : Nat} (h : Loc.wf (.unmapped off) = true) : locOf off = .unmapped off := by
  simp only [Loc.wf, accessWf, Bool.and_eq_true, Bool.or_eq_true, beq_iff_eq, decide_eq_true_eq] at h
  unfold locOf
  iterate 12 rw [if_neg (by omega)]

/-- A word offset of the window is a register's, a RAM byte's, or unmapped. -/
theorem offset_cases {off : Nat} (h4 : off % 4 = 0) (h : off < 0x1000) :
    off ∈ [0x000, 0x004, 0x008, 0x00C, 0x010, 0x014, 0x018, 0x01C, 0x020] ∨ (∃ i, i < 256 ∧ off = bufAddr i) ∨
      (∃ k, k < 31 ∧ off = genAddr k) ∨ (∃ j, j < 30 ∧ off = remAddr j) ∨ Loc.wf (.unmapped off) = true := by
  simp only [List.mem_cons, List.not_mem_nil, or_false, bufAddr, bufBase, genAddr, genBase, remAddr, remBase, Loc.wf,
    accessWf, Bool.and_eq_true, Bool.or_eq_true, beq_iff_eq, decide_eq_true_eq, Config.windowSize]
  by_cases a : off < 0x24
  · exact .inl (by omega)
  by_cases b : 0x400 ≤ off ∧ off ≤ 0x7FC
  · exact .inr (.inl ⟨(off - 0x400) / 4, by omega, by omega⟩)
  by_cases c : 0x800 ≤ off ∧ off ≤ 0x878
  · exact .inr (.inr (.inl ⟨(off - 0x800) / 4, by omega, by omega⟩))
  by_cases d : 0xC00 ≤ off ∧ off ≤ 0xC74
  · exact .inr (.inr (.inr (.inl ⟨(off - 0xC00) / 4, by omega, by omega⟩)))
  · exact .inr (.inr (.inr (.inr (by simp only [true_and]; exact ⟨⟨h4, decide_eq_true h⟩, by omega⟩))))

/-- The RAM offsets, as ranges. -/
theorem isRamOffset_iff (a : Nat) : isRamOffset a = true ↔
    a % 4 = 0 ∧ ((0x400 ≤ a ∧ a ≤ 0x7FC) ∨ (0x804 ≤ a ∧ a ≤ 0x878) ∨ (0xC00 ≤ a ∧ a ≤ 0xC74)) := by
  simp [isRamOffset, or_assoc]

theorem isRamOffset_bufAddr {i : Nat} (h : i < 256) : isRamOffset (bufAddr i) = true := by
  rw [isRamOffset_iff]
  simp only [bufAddr, bufBase]
  omega

theorem isRamOffset_genAddr {k : Nat} (h1 : 1 ≤ k) (h : k < 31) : isRamOffset (genAddr k) = true := by
  rw [isRamOffset_iff]
  simp only [genAddr, genBase]
  omega

theorem isRamOffset_remAddr {j : Nat} (h : j < 30) : isRamOffset (remAddr j) = true := by
  rw [isRamOffset_iff]
  simp only [remAddr, remBase]
  omega

end Sys2Proof.Machine
end

