-- ==== Sys2Proof/Laws/Decode.lean ====
section
/-! SUPPORT. Small laws of the opcode map. -/

namespace Sys2Proof

/-- An opcode names the command it was made from. -/
@[simp] theorem decodeOp_opcode (i : Instr) : decodeOp (opcode i) = some i := by cases i <;> decide

/-- An opcode that names a command is that command's opcode. -/
theorem opcode_of_decodeOp {op : BitVec 4} {i : Instr} (h : decodeOp op = some i) : op = opcode i := by
  unfold decodeOp at h
  repeat' split at h
  all_goals first | assumption | (cases h; assumption) | cases h

/-- The opcode field of a command's word. -/
@[simp] theorem opField_encode (i : Instr) : opField (encode i) = opcode i := by cases i <;> decide

/-- The reserved field of a command's word is 0. -/
@[simp] theorem rsvField_encode (i : Instr) : rsvField (encode i) = 0#28 := by cases i <;> decide

/-- A decoded word has reserved bits 0 and the command's opcode. -/
theorem fields_of_decode {cw : Word} {i : Instr} (h : decode cw = .cmd i) :
    rsvField cw = 0#28 ∧ decodeOp (opField cw) = some i := by
  unfold decode at h
  split at h
  · cases h
  · next hr =>
    refine ⟨by simpa using hr, ?_⟩
    split at h
    · cases h; assumption
    · cases h

/-- A word is its opcode field and its reserved field. -/
theorem word_of_fields (cw : Word) : cw.toNat = (rsvField cw).toNat * 16 + (opField cw).toNat := by
  simp only [rsvField, opField, BitVec.extractLsb'_toNat, Nat.shiftRight_eq_div_pow]
  omega

end Sys2Proof
end

