-- ==== Sys2Proof/Laws/Field.lean ====
section
/-! SUPPORT. The field product is additive in each operand: the carry-less product and the reduction are, bit by bit. -/

namespace Sys2Proof.Machine

/-- A left fold of additive functions is additive. -/
theorem foldl_xor {α : Type} {w : Nat} (f : BitVec w → α → BitVec w) (l : List α)
    (hf : ∀ x y a, f (x ^^^ y) a = f x a ^^^ f y a) (x y : BitVec w) :
    l.foldl f (x ^^^ y) = l.foldl f x ^^^ l.foldl f y := by
  induction l generalizing x y with
  | nil => rfl
  | cons a l ih => rw [List.foldl_cons, hf, ih]; rfl

/-- The reduction modulo p(x) is additive (40_gf_field.md R112). -/
theorem gfReduce_xor (x y : BitVec 16) : gfReduce (x ^^^ y) = gfReduce x ^^^ gfReduce y := by
  refine foldl_xor _ _ (fun x y i => ?_) x y
  have key : ∀ c : BitVec 16, x ^^^ c ^^^ (y ^^^ c) = x ^^^ y := fun c => by
    rw [show x ^^^ c ^^^ (y ^^^ c) = x ^^^ y ^^^ (c ^^^ c) by ac_rfl, BitVec.xor_self, BitVec.xor_zero]
  rw [BitVec.getLsbD_xor]
  cases x.getLsbD i <;> cases y.getLsbD i <;> simp only [Bool.bne_false,
    Bool.bne_true, Bool.not_false, Bool.not_true, Bool.false_eq_true, if_true, if_false, key] <;> ac_rfl

/-- The carry-less product, one shifted copy of `a` for each bit of `b`. -/
theorem clMul_eq (a b : Byte) : clMul a b =
    [0, 1, 2, 3, 4, 5, 6, 7].foldr (fun i r => (if b.getLsbD i then a.setWidth 16 <<< i else 0#16) ^^^ r) 0#16 := by
  have h : ∀ (l : List Nat) (r : BitVec 16),
      l.foldl (fun r i => if b.getLsbD i then r ^^^ (a.setWidth 16 <<< i) else r) r =
        r ^^^ l.foldr (fun i r => (if b.getLsbD i then a.setWidth 16 <<< i else 0#16) ^^^ r) 0#16 := by
    intro l
    induction l with
    | nil => simp
    | cons i l ih =>
      intro r
      rw [List.foldl_cons, ih, List.foldr_cons]
      cases b.getLsbD i <;> simp [BitVec.xor_assoc]
  rw [clMul, h, BitVec.zero_xor]

/-- A right fold of sums is the sum of the folds. -/
theorem foldr_xor {w : Nat} (f g : Nat → BitVec w) (l : List Nat) :
    l.foldr (fun i r => (f i ^^^ g i) ^^^ r) 0#w =
      l.foldr (fun i r => f i ^^^ r) 0#w ^^^ l.foldr (fun i r => g i ^^^ r) 0#w := by
  induction l with
  | nil => simp
  | cons i l ih =>
    simp only [List.foldr_cons, ih]
    ac_rfl

/-- The carry-less product is additive in its second operand. -/
theorem clMul_xor_right (a b c : Byte) : clMul a (b ^^^ c) = clMul a b ^^^ clMul a c := by
  rw [clMul_eq, clMul_eq a b, clMul_eq a c, ← foldr_xor]
  congr 1
  funext i r
  rw [BitVec.getLsbD_xor]
  cases b.getLsbD i <;> cases c.getLsbD i <;> simp

/-- The carry-less product is additive in its first operand. -/
theorem clMul_xor_left (a b c : Byte) : clMul (a ^^^ b) c = clMul a c ^^^ clMul b c := by
  rw [clMul_eq, clMul_eq a, clMul_eq b, ← foldr_xor]
  congr 1
  funext i r
  cases c.getLsbD i
  · simp
  · simp [BitVec.setWidth_xor, BitVec.shiftLeft_xor_distrib]

/-- The field product is additive in its second operand. -/
theorem gfMul_xor_right (a b c : Byte) : gfMul a (b ^^^ c) = gfMul a b ^^^ gfMul a c := by
  simp [gfMul, clMul_xor_right, gfReduce_xor, BitVec.setWidth_xor]

/-- The field product is additive in its first operand. -/
theorem gfMul_xor_left (a b c : Byte) : gfMul (a ^^^ b) c = gfMul a c ^^^ gfMul b c := by
  simp [gfMul, clMul_xor_left, gfReduce_xor, BitVec.setWidth_xor]

end Sys2Proof.Machine
end

