-- ==== Sys2Proof/Laws/Memory.lean ====
section
/-! SUPPORT. The laws of the memory operations: a read after a write, the canonical form, and the range operations. -/

namespace Sys2Proof.Machine

@[simp] theorem Memory.read_nil (a : Nat) : Memory.read [] a = none := rfl

/-- A read after a write: the written byte at its own offset, the old one everywhere else. -/
theorem Memory.read_write (m : Memory) (a b : Nat) (v : Byte) :
    (m.write a v).read b = if a = b then some v else m.read b := by
  induction m with
  | nil => rfl
  | cons c m ih =>
    obtain ⟨k, w⟩ := c
    unfold Memory.write
    split
    · rfl
    · split
      · subst_vars; simp only [Memory.read]; split <;> rfl
      · simp only [Memory.read, ih]
        split
        · rw [if_neg (by omega)]
        · rfl

@[simp] theorem Memory.read_write_same (m : Memory) (a : Nat) (v : Byte) : (m.write a v).read a = some v := by
  rw [Memory.read_write, if_pos rfl]

theorem Memory.read_write_other {a b : Nat} (m : Memory) (v : Byte) (h : a ≠ b) :
    (m.write a v).read b = m.read b := by
  rw [Memory.read_write, if_neg h]

/-- A read after an erase. -/
theorem Memory.read_erase (m : Memory) (a b : Nat) :
    (m.erase a).read b = if a = b then none else m.read b := by
  induction m with
  | nil => simp [Memory.erase, Memory.read]
  | cons c m ih =>
    obtain ⟨k, w⟩ := c
    simp only [Memory.erase, List.filter] at ih ⊢
    by_cases h : k = a
    · simp only [h, bne_self_eq_false, ih, Memory.read]
      split <;> rfl
    · have : (k != a) = true := by simpa using h
      simp only [this, Memory.read, ih]
      split
      · rw [if_neg (by omega)]
      · rfl

/-- An offset of the memory after a write is the written one or an old one. -/
theorem Memory.mem_write {m : Memory} {a : Nat} {v : Byte} {c : Host.Cell} (h : c ∈ m.write a v) :
    c = (a, v) ∨ c ∈ m := by
  induction m with
  | nil => simpa [Memory.write] using h
  | cons d m ih =>
    obtain ⟨k, w⟩ := d
    unfold Memory.write at h
    split at h
    · simpa using h
    · split at h
      · simp only [List.mem_cons] at h ⊢; tauto
      · simp only [List.mem_cons] at h ⊢; rcases h with h | h
        · exact .inr (.inl h)
        · rcases ih h with h | h
          · exact .inl h
          · exact .inr (.inr h)

/-- A write keeps the canonical form. -/
theorem Memory.wf_write {m : Memory} (h : m.wf) (a : Nat) (v : Byte) : (m.write a v).wf := by
  induction m with
  | nil => simp [Memory.write, Memory.wf]
  | cons d m ih =>
    obtain ⟨k, w⟩ := d
    obtain ⟨hk, hm⟩ := List.pairwise_cons.1 h
    unfold Memory.write
    split
    · next hlt =>
      refine List.pairwise_cons.2 ⟨fun c hc => ?_, h⟩
      rcases List.mem_cons.1 hc with rfl | hc
      · exact hlt
      · exact lt_trans hlt (hk c hc)
    · split
      · next heq => subst heq; exact List.pairwise_cons.2 ⟨hk, hm⟩
      · refine List.pairwise_cons.2 ⟨fun c hc => ?_, ih hm⟩
        rcases Memory.mem_write hc with rfl | hc
        · simp only; omega
        · exact hk c hc

/-- An erase keeps the canonical form. -/
theorem Memory.wf_erase {m : Memory} (h : m.wf) (a : Nat) : (m.erase a).wf := List.Pairwise.filter _ h

theorem Memory.mem_erase {m : Memory} {a : Nat} {c : Host.Cell} (h : c ∈ m.erase a) : c ∈ m :=
  (List.mem_filter.1 h).1

/-- Writing a list of bytes keeps the canonical form. -/
theorem Memory.wf_writeBytes {m : Memory} (h : m.wf) (base : Nat) (bs : List Byte) : (m.writeBytes base bs).wf := by
  induction bs generalizing m base with
  | nil => exact h
  | cons b bs ih => exact ih (Memory.wf_write h base b) _

/-- Erasing a range keeps the canonical form. -/
theorem Memory.wf_eraseBytes {m : Memory} (h : m.wf) (base n : Nat) : (m.eraseBytes base n).wf := by
  induction n generalizing m base with
  | zero => exact h
  | succ n ih => exact ih (Memory.wf_erase h base) _

/-- The offsets of the memory after writing a list of bytes. -/
theorem Memory.mem_writeBytes {m : Memory} {base : Nat} {bs : List Byte} {c : Host.Cell}
    (h : c ∈ m.writeBytes base bs) : c ∈ m ∨ ∃ k, k < bs.length ∧ c.1 = base + 4 * k := by
  induction bs generalizing m base with
  | nil => exact .inl h
  | cons b bs ih =>
    rcases ih h with h | ⟨k, hk, e⟩
    · rcases Memory.mem_write h with rfl | h
      · exact .inr ⟨0, by simp, by simp⟩
      · exact .inl h
    · exact .inr ⟨k + 1, by simpa using hk, by omega⟩

theorem Memory.mem_eraseBytes {m : Memory} {base n : Nat} {c : Host.Cell} (h : c ∈ m.eraseBytes base n) : c ∈ m := by
  induction n generalizing m base with
  | zero => exact h
  | succ n ih => exact Memory.mem_erase (ih h)

/-- A read outside the written words sees the old byte. -/
theorem Memory.read_writeBytes_other {m : Memory} {base a : Nat} {bs : List Byte}
    (h : ∀ k, k < bs.length → a ≠ base + 4 * k) : (m.writeBytes base bs).read a = m.read a := by
  induction bs generalizing m base with
  | nil => rfl
  | cons b bs ih =>
    have h0 := h 0 (by simp)
    rw [Memory.writeBytes, ih fun k hk => ?_, Memory.read_write_other _ _ (by omega)]
    have := h (k + 1) (by simpa using hk)
    omega

/-- A read of a written word sees its byte. -/
theorem Memory.read_writeBytes_at {m : Memory} {base k : Nat} {bs : List Byte} (h : k < bs.length) :
    (m.writeBytes base bs).read (base + 4 * k) = some bs[k] := by
  induction bs generalizing m base k with
  | nil => simp at h
  | cons b bs ih =>
    cases k with
    | zero =>
      rw [Memory.writeBytes, Memory.read_writeBytes_other fun j _ => by omega]
      simp
    | succ k =>
      have := ih (m := m.write base b) (base := base + 4) (k := k) (by simpa using h)
      rw [Memory.writeBytes, show base + 4 * (k + 1) = base + 4 + 4 * k by omega, this]
      simp

/-- A read after a range became unwritten: nothing inside it, the old byte outside. -/
theorem Memory.read_eraseBytes (m : Memory) (base n a : Nat) :
    (m.eraseBytes base n).read a = if ∃ k, k < n ∧ a = base + 4 * k then none else m.read a := by
  induction n generalizing m base with
  | zero => simp [Memory.eraseBytes]
  | succ n ih =>
    rw [Memory.eraseBytes, ih, Memory.read_erase]
    by_cases h0 : base = a
    · simp only [h0, if_true, ite_self]
      rw [if_pos ⟨0, by omega, by omega⟩]
    · have : (∃ k, k < n ∧ a = base + 4 + 4 * k) ↔ ∃ k, k < n + 1 ∧ a = base + 4 * k := by
        constructor
        · rintro ⟨k, hk, e⟩; exact ⟨k + 1, by omega, by omega⟩
        · rintro ⟨k, hk, e⟩
          cases k with
          | zero => omega
          | succ k => exact ⟨k, by omega, by omega⟩
      simp only [if_neg h0, this]

/-- A range read succeeds exactly when every byte of it is written, and gives those bytes in order. -/
theorem Memory.readBytes_eq_some {m : Memory} {base n : Nat} {bs : List Byte} :
    m.readBytes base n = some bs ↔
      bs.length = n ∧ ∀ k (h : k < bs.length), m.read (base + 4 * k) = some bs[k] := by
  induction n generalizing base bs with
  | zero =>
    constructor
    · intro h; cases Option.some.inj h; simp
    · rintro ⟨h, -⟩; simp [List.length_eq_zero_iff.1 h, Memory.readBytes]
  | succ n ih =>
    constructor
    · intro h
      unfold Memory.readBytes at h
      split at h
      · next b cs hb hcs =>
        cases Option.some.inj h
        obtain ⟨hl, hr⟩ := ih.1 hcs
        refine ⟨by simp [hl], fun k hk => ?_⟩
        cases k with
        | zero => simpa using hb
        | succ k =>
          have := hr k (by simpa using hk)
          rw [show base + 4 * (k + 1) = base + 4 + 4 * k by omega, this]; simp
      · cases h
    · rintro ⟨hl, hr⟩
      cases bs with
      | nil => simp at hl
      | cons b cs =>
        have hb : m.read base = some b := hr 0 (by simp)
        have hcs : m.readBytes (base + 4) n = some cs := by
          refine ih.2 ⟨by simpa using hl, fun k hk => ?_⟩
          have := hr (k + 1) (by simpa using hk)
          rw [show base + 4 * (k + 1) = base + 4 + 4 * k by omega] at this
          simpa using this
        simp [Memory.readBytes, hb, hcs]

theorem Memory.length_of_readBytes {m : Memory} {base n : Nat} {bs : List Byte} (h : m.readBytes base n = some bs) :
    bs.length = n := (Memory.readBytes_eq_some.1 h).1

/-- A range read of the words just written gives the written bytes. -/
theorem Memory.readBytes_writeBytes (m : Memory) (base : Nat) (bs : List Byte) :
    (m.writeBytes base bs).readBytes base bs.length = some bs :=
  Memory.readBytes_eq_some.2 ⟨rfl, fun _ hk => Memory.read_writeBytes_at hk⟩

/-- A range read away from the words just written gives what it gave before. -/
theorem Memory.readBytes_writeBytes_other {m : Memory} {base base' n : Nat} {bs cs : List Byte}
    (h : ∀ k j, k < n → j < bs.length → base' + 4 * k ≠ base + 4 * j) (hr : m.readBytes base' n = some cs) :
    (m.writeBytes base bs).readBytes base' n = some cs := by
  obtain ⟨hl, hk⟩ := Memory.readBytes_eq_some.1 hr
  refine Memory.readBytes_eq_some.2 ⟨hl, fun k hkl => ?_⟩
  rw [Memory.read_writeBytes_other fun j hj => h k j (hl ▸ hkl) hj]
  exact hk k hkl

@[simp] theorem length_freeBytes (next n : Nat) : (freeBytes next n).length = n := by simp [freeBytes]

end Sys2Proof.Machine
end

