-- ==== Sys2Proof/Laws/State.lean ====
section
/-! SUPPORT. One lemma per field per update of the state, so that no later proof unfolds a record update. -/

namespace Sys2Proof.Machine

/-! ### `accessError` -/

@[simp] theorem accessError_ctrlIE (s : State) : (accessError s).ctrlIE = s.ctrlIE := rfl
@[simp] theorem accessError_status (s : State) : (accessError s).status = { s.status with accerr := true } := rfl
@[simp] theorem accessError_cmdLast (s : State) : (accessError s).cmdLast = s.cmdLast := rfl
@[simp] theorem accessError_argA (s : State) : (accessError s).argA = s.argA := rfl
@[simp] theorem accessError_argB (s : State) : (accessError s).argB = s.argB := rfl
@[simp] theorem accessError_result (s : State) : (accessError s).result = s.result := rfl
@[simp] theorem accessError_dlen (s : State) : (accessError s).dlen = s.dlen := rfl
@[simp] theorem accessError_elen (s : State) : (accessError s).elen = s.elen := rfl
@[simp] theorem accessError_mem (s : State) : (accessError s).mem = s.mem := rfl
@[simp] theorem accessError_pend (s : State) : (accessError s).pend = s.pend := rfl
@[simp] theorem accessError_rdata (s : State) : (accessError s).rdata = s.rdata := rfl
@[simp] theorem accessError_inputs (s : State) : (accessError s).inputs = s.inputs := rfl
@[simp] theorem accessError_fresh (s : State) : (accessError s).fresh = s.fresh := rfl

/-! ### `answer` -/

@[simp] theorem answer_ctrlIE (v : Word) (s : State) : (answer v s).ctrlIE = s.ctrlIE := rfl
@[simp] theorem answer_status (v : Word) (s : State) : (answer v s).status = s.status := rfl
@[simp] theorem answer_cmdLast (v : Word) (s : State) : (answer v s).cmdLast = s.cmdLast := rfl
@[simp] theorem answer_argA (v : Word) (s : State) : (answer v s).argA = s.argA := rfl
@[simp] theorem answer_argB (v : Word) (s : State) : (answer v s).argB = s.argB := rfl
@[simp] theorem answer_result (v : Word) (s : State) : (answer v s).result = s.result := rfl
@[simp] theorem answer_dlen (v : Word) (s : State) : (answer v s).dlen = s.dlen := rfl
@[simp] theorem answer_elen (v : Word) (s : State) : (answer v s).elen = s.elen := rfl
@[simp] theorem answer_mem (v : Word) (s : State) : (answer v s).mem = s.mem := rfl
@[simp] theorem answer_pend (v : Word) (s : State) : (answer v s).pend = s.pend := rfl
@[simp] theorem answer_rdata (v : Word) (s : State) : (answer v s).rdata = some v := rfl
@[simp] theorem answer_inputs (v : Word) (s : State) : (answer v s).inputs = s.inputs := rfl
@[simp] theorem answer_fresh (v : Word) (s : State) : (answer v s).fresh = s.fresh := rfl

/-! ### `takeInput` -/

@[simp] theorem takeInput_ctrlIE (s : State) : (takeInput s).ctrlIE = s.ctrlIE := rfl
@[simp] theorem takeInput_status (s : State) : (takeInput s).status = s.status := rfl
@[simp] theorem takeInput_cmdLast (s : State) : (takeInput s).cmdLast = s.cmdLast := rfl
@[simp] theorem takeInput_argA (s : State) : (takeInput s).argA = s.argA := rfl
@[simp] theorem takeInput_argB (s : State) : (takeInput s).argB = s.argB := rfl
@[simp] theorem takeInput_result (s : State) : (takeInput s).result = s.result := rfl
@[simp] theorem takeInput_dlen (s : State) : (takeInput s).dlen = s.dlen := rfl
@[simp] theorem takeInput_elen (s : State) : (takeInput s).elen = s.elen := rfl
@[simp] theorem takeInput_mem (s : State) : (takeInput s).mem = s.mem := rfl
@[simp] theorem takeInput_pend (s : State) : (takeInput s).pend = s.pend := rfl
@[simp] theorem takeInput_rdata (s : State) : (takeInput s).rdata = none := rfl
@[simp] theorem takeInput_inputs (s : State) : (takeInput s).inputs = s.inputs.tail := rfl
@[simp] theorem takeInput_fresh (s : State) : (takeInput s).fresh = s.fresh := rfl

/-! ### `beginIssue` -/

@[simp] theorem beginIssue_ctrlIE (cw : Word) (s : State) : (beginIssue cw s).ctrlIE = s.ctrlIE := rfl
@[simp] theorem beginIssue_status (cw : Word) (s : State) : (beginIssue cw s).status = { s.status with done := false, err := false, ecode := 0#4 } := rfl
@[simp] theorem beginIssue_cmdLast (cw : Word) (s : State) : (beginIssue cw s).cmdLast = cw := rfl
@[simp] theorem beginIssue_argA (cw : Word) (s : State) : (beginIssue cw s).argA = s.argA := rfl
@[simp] theorem beginIssue_argB (cw : Word) (s : State) : (beginIssue cw s).argB = s.argB := rfl
@[simp] theorem beginIssue_result (cw : Word) (s : State) : (beginIssue cw s).result = s.result := rfl
@[simp] theorem beginIssue_dlen (cw : Word) (s : State) : (beginIssue cw s).dlen = s.dlen := rfl
@[simp] theorem beginIssue_elen (cw : Word) (s : State) : (beginIssue cw s).elen = s.elen := rfl
@[simp] theorem beginIssue_mem (cw : Word) (s : State) : (beginIssue cw s).mem = s.mem := rfl
@[simp] theorem beginIssue_pend (cw : Word) (s : State) : (beginIssue cw s).pend = s.pend := rfl
@[simp] theorem beginIssue_rdata (cw : Word) (s : State) : (beginIssue cw s).rdata = s.rdata := rfl
@[simp] theorem beginIssue_inputs (cw : Word) (s : State) : (beginIssue cw s).inputs = s.inputs := rfl
@[simp] theorem beginIssue_fresh (cw : Word) (s : State) : (beginIssue cw s).fresh = s.fresh := rfl

/-! ### `raiseError` -/

@[simp] theorem raiseError_ctrlIE (e : ErrCode) (s : State) : (raiseError e s).ctrlIE = s.ctrlIE := rfl
@[simp] theorem raiseError_status (e : ErrCode) (s : State) : (raiseError e s).status = { s.status with err := true, ecode := e.code } := rfl
@[simp] theorem raiseError_cmdLast (e : ErrCode) (s : State) : (raiseError e s).cmdLast = s.cmdLast := rfl
@[simp] theorem raiseError_argA (e : ErrCode) (s : State) : (raiseError e s).argA = s.argA := rfl
@[simp] theorem raiseError_argB (e : ErrCode) (s : State) : (raiseError e s).argB = s.argB := rfl
@[simp] theorem raiseError_result (e : ErrCode) (s : State) : (raiseError e s).result = s.result := rfl
@[simp] theorem raiseError_dlen (e : ErrCode) (s : State) : (raiseError e s).dlen = s.dlen := rfl
@[simp] theorem raiseError_elen (e : ErrCode) (s : State) : (raiseError e s).elen = s.elen := rfl
@[simp] theorem raiseError_mem (e : ErrCode) (s : State) : (raiseError e s).mem = s.mem := rfl
@[simp] theorem raiseError_pend (e : ErrCode) (s : State) : (raiseError e s).pend = s.pend := rfl
@[simp] theorem raiseError_rdata (e : ErrCode) (s : State) : (raiseError e s).rdata = s.rdata := rfl
@[simp] theorem raiseError_inputs (e : ErrCode) (s : State) : (raiseError e s).inputs = s.inputs := rfl
@[simp] theorem raiseError_fresh (e : ErrCode) (s : State) : (raiseError e s).fresh = s.fresh := rfl

/-! ### `accept` -/

@[simp] theorem accept_ctrlIE (i : Instr) (s : State) : (accept i s).ctrlIE = s.ctrlIE := rfl
@[simp] theorem accept_status (i : Instr) (s : State) : (accept i s).status = { s.status with busy := true } := rfl
@[simp] theorem accept_cmdLast (i : Instr) (s : State) : (accept i s).cmdLast = s.cmdLast := rfl
@[simp] theorem accept_argA (i : Instr) (s : State) : (accept i s).argA = s.argA := rfl
@[simp] theorem accept_argB (i : Instr) (s : State) : (accept i s).argB = s.argB := rfl
@[simp] theorem accept_result (i : Instr) (s : State) : (accept i s).result = s.result := rfl
@[simp] theorem accept_dlen (i : Instr) (s : State) : (accept i s).dlen = s.dlen := rfl
@[simp] theorem accept_elen (i : Instr) (s : State) : (accept i s).elen = s.elen := rfl
@[simp] theorem accept_mem (i : Instr) (s : State) : (accept i s).mem = s.mem := rfl
@[simp] theorem accept_pend (i : Instr) (s : State) : (accept i s).pend = { valid := true, op := opcode i } := rfl
@[simp] theorem accept_rdata (i : Instr) (s : State) : (accept i s).rdata = s.rdata := rfl
@[simp] theorem accept_inputs (i : Instr) (s : State) : (accept i s).inputs = s.inputs := rfl
@[simp] theorem accept_fresh (i : Instr) (s : State) : (accept i s).fresh = s.fresh := rfl

/-! ### `finish` -/

@[simp] theorem finish_ctrlIE (s : State) : (finish s).ctrlIE = s.ctrlIE := rfl
@[simp] theorem finish_status (s : State) : (finish s).status = { s.status with busy := false, done := true } := rfl
@[simp] theorem finish_cmdLast (s : State) : (finish s).cmdLast = s.cmdLast := rfl
@[simp] theorem finish_argA (s : State) : (finish s).argA = s.argA := rfl
@[simp] theorem finish_argB (s : State) : (finish s).argB = s.argB := rfl
@[simp] theorem finish_result (s : State) : (finish s).result = s.result := rfl
@[simp] theorem finish_dlen (s : State) : (finish s).dlen = s.dlen := rfl
@[simp] theorem finish_elen (s : State) : (finish s).elen = s.elen := rfl
@[simp] theorem finish_mem (s : State) : (finish s).mem = s.mem := rfl
@[simp] theorem finish_pend (s : State) : (finish s).pend = { s.pend with valid := false } := rfl
@[simp] theorem finish_rdata (s : State) : (finish s).rdata = s.rdata := rfl
@[simp] theorem finish_inputs (s : State) : (finish s).inputs = s.inputs := rfl
@[simp] theorem finish_fresh (s : State) : (finish s).fresh = s.fresh := rfl

/-! ### `storeBytes` -/

@[simp] theorem storeBytes_ctrlIE (base n : Nat) (r : Option (List Byte)) (s : State) : (storeBytes base n r s).ctrlIE = s.ctrlIE := by cases r <;> rfl
@[simp] theorem storeBytes_status (base n : Nat) (r : Option (List Byte)) (s : State) : (storeBytes base n r s).status = s.status := by cases r <;> rfl
@[simp] theorem storeBytes_cmdLast (base n : Nat) (r : Option (List Byte)) (s : State) : (storeBytes base n r s).cmdLast = s.cmdLast := by cases r <;> rfl
@[simp] theorem storeBytes_argA (base n : Nat) (r : Option (List Byte)) (s : State) : (storeBytes base n r s).argA = s.argA := by cases r <;> rfl
@[simp] theorem storeBytes_argB (base n : Nat) (r : Option (List Byte)) (s : State) : (storeBytes base n r s).argB = s.argB := by cases r <;> rfl
@[simp] theorem storeBytes_result (base n : Nat) (r : Option (List Byte)) (s : State) : (storeBytes base n r s).result = s.result := by cases r <;> rfl
@[simp] theorem storeBytes_dlen (base n : Nat) (r : Option (List Byte)) (s : State) : (storeBytes base n r s).dlen = s.dlen := by cases r <;> rfl
@[simp] theorem storeBytes_elen (base n : Nat) (r : Option (List Byte)) (s : State) : (storeBytes base n r s).elen = s.elen := by cases r <;> rfl
@[simp] theorem storeBytes_pend (base n : Nat) (r : Option (List Byte)) (s : State) : (storeBytes base n r s).pend = s.pend := by cases r <;> rfl
@[simp] theorem storeBytes_rdata (base n : Nat) (r : Option (List Byte)) (s : State) : (storeBytes base n r s).rdata = s.rdata := by cases r <;> rfl
@[simp] theorem storeBytes_inputs (base n : Nat) (r : Option (List Byte)) (s : State) : (storeBytes base n r s).inputs = s.inputs := by cases r <;> rfl

@[simp] theorem storeBytes_some_mem (base n : Nat) (bs : List Byte) (s : State) :
    (storeBytes base n (some bs) s).mem = s.mem.writeBytes base bs := rfl
@[simp] theorem storeBytes_some_fresh (base n : Nat) (bs : List Byte) (s : State) :
    (storeBytes base n (some bs) s).fresh = s.fresh := rfl
@[simp] theorem storeBytes_none_mem (base n : Nat) (s : State) :
    (storeBytes base n none s).mem = s.mem.writeBytes base (freeBytes s.fresh n) := rfl
@[simp] theorem storeBytes_none_fresh (base n : Nat) (s : State) :
    (storeBytes base n none s).fresh = s.fresh + n := rfl

/-! ### `storeResult` -/

@[simp] theorem storeResult_ctrlIE (r : Option Byte) (s : State) : (storeResult r s).ctrlIE = s.ctrlIE := by cases r <;> rfl
@[simp] theorem storeResult_status (r : Option Byte) (s : State) : (storeResult r s).status = s.status := by cases r <;> rfl
@[simp] theorem storeResult_cmdLast (r : Option Byte) (s : State) : (storeResult r s).cmdLast = s.cmdLast := by cases r <;> rfl
@[simp] theorem storeResult_argA (r : Option Byte) (s : State) : (storeResult r s).argA = s.argA := by cases r <;> rfl
@[simp] theorem storeResult_argB (r : Option Byte) (s : State) : (storeResult r s).argB = s.argB := by cases r <;> rfl
@[simp] theorem storeResult_dlen (r : Option Byte) (s : State) : (storeResult r s).dlen = s.dlen := by cases r <;> rfl
@[simp] theorem storeResult_elen (r : Option Byte) (s : State) : (storeResult r s).elen = s.elen := by cases r <;> rfl
@[simp] theorem storeResult_mem (r : Option Byte) (s : State) : (storeResult r s).mem = s.mem := by cases r <;> rfl
@[simp] theorem storeResult_pend (r : Option Byte) (s : State) : (storeResult r s).pend = s.pend := by cases r <;> rfl
@[simp] theorem storeResult_rdata (r : Option Byte) (s : State) : (storeResult r s).rdata = s.rdata := by cases r <;> rfl
@[simp] theorem storeResult_inputs (r : Option Byte) (s : State) : (storeResult r s).inputs = s.inputs := by cases r <;> rfl

@[simp] theorem storeResult_some_result (b : Byte) (s : State) : (storeResult (some b) s).result = b := rfl
@[simp] theorem storeResult_some_fresh (b : Byte) (s : State) : (storeResult (some b) s).fresh = s.fresh := rfl

/-! ### `showByte` -/

@[simp] theorem showByte_ctrlIE (r : Option Byte) (s : State) : (showByte r s).ctrlIE = s.ctrlIE := by cases r <;> rfl
@[simp] theorem showByte_status (r : Option Byte) (s : State) : (showByte r s).status = s.status := by cases r <;> rfl
@[simp] theorem showByte_cmdLast (r : Option Byte) (s : State) : (showByte r s).cmdLast = s.cmdLast := by cases r <;> rfl
@[simp] theorem showByte_argA (r : Option Byte) (s : State) : (showByte r s).argA = s.argA := by cases r <;> rfl
@[simp] theorem showByte_argB (r : Option Byte) (s : State) : (showByte r s).argB = s.argB := by cases r <;> rfl
@[simp] theorem showByte_result (r : Option Byte) (s : State) : (showByte r s).result = s.result := by cases r <;> rfl
@[simp] theorem showByte_dlen (r : Option Byte) (s : State) : (showByte r s).dlen = s.dlen := by cases r <;> rfl
@[simp] theorem showByte_elen (r : Option Byte) (s : State) : (showByte r s).elen = s.elen := by cases r <;> rfl
@[simp] theorem showByte_mem (r : Option Byte) (s : State) : (showByte r s).mem = s.mem := by cases r <;> rfl
@[simp] theorem showByte_pend (r : Option Byte) (s : State) : (showByte r s).pend = s.pend := by cases r <;> rfl
@[simp] theorem showByte_inputs (r : Option Byte) (s : State) : (showByte r s).inputs = s.inputs := by cases r <;> rfl

@[simp] theorem showByte_some_rdata (b : Byte) (s : State) : (showByte (some b) s).rdata = some (b.setWidth 32) := rfl
@[simp] theorem showByte_some_fresh (b : Byte) (s : State) : (showByte (some b) s).fresh = s.fresh := rfl

/-! ### `abandon` -/

@[simp] theorem abandon_ctrlIE (i : Instr) (s : State) : (abandon i s).ctrlIE = s.ctrlIE := rfl
@[simp] theorem abandon_status (i : Instr) (s : State) : (abandon i s).status = s.status := rfl
@[simp] theorem abandon_cmdLast (i : Instr) (s : State) : (abandon i s).cmdLast = s.cmdLast := rfl
@[simp] theorem abandon_argA (i : Instr) (s : State) : (abandon i s).argA = s.argA := rfl
@[simp] theorem abandon_argB (i : Instr) (s : State) : (abandon i s).argB = s.argB := rfl
@[simp] theorem abandon_result (i : Instr) (s : State) : (abandon i s).result = s.result := rfl
@[simp] theorem abandon_dlen (i : Instr) (s : State) : (abandon i s).dlen = s.dlen := rfl
@[simp] theorem abandon_elen (i : Instr) (s : State) : (abandon i s).elen = s.elen := rfl
@[simp] theorem abandon_mem (i : Instr) (s : State) : (abandon i s).mem = s.mem.eraseBytes (destination i s).1 (destination i s).2 := rfl
@[simp] theorem abandon_pend (i : Instr) (s : State) : (abandon i s).pend = s.pend := rfl
@[simp] theorem abandon_rdata (i : Instr) (s : State) : (abandon i s).rdata = s.rdata := rfl
@[simp] theorem abandon_inputs (i : Instr) (s : State) : (abandon i s).inputs = s.inputs := rfl
@[simp] theorem abandon_fresh (i : Instr) (s : State) : (abandon i s).fresh = s.fresh := rfl

/-! ### `abandonPending` -/

@[simp] theorem abandonPending_ctrlIE (s : State) : (abandonPending s).ctrlIE = s.ctrlIE := by
  unfold abandonPending; split
  · split <;> rfl
  · rfl
@[simp] theorem abandonPending_status (s : State) : (abandonPending s).status = s.status := by
  unfold abandonPending; split
  · split <;> rfl
  · rfl
@[simp] theorem abandonPending_cmdLast (s : State) : (abandonPending s).cmdLast = s.cmdLast := by
  unfold abandonPending; split
  · split <;> rfl
  · rfl
@[simp] theorem abandonPending_argA (s : State) : (abandonPending s).argA = s.argA := by
  unfold abandonPending; split
  · split <;> rfl
  · rfl
@[simp] theorem abandonPending_argB (s : State) : (abandonPending s).argB = s.argB := by
  unfold abandonPending; split
  · split <;> rfl
  · rfl
@[simp] theorem abandonPending_result (s : State) : (abandonPending s).result = s.result := by
  unfold abandonPending; split
  · split <;> rfl
  · rfl
@[simp] theorem abandonPending_dlen (s : State) : (abandonPending s).dlen = s.dlen := by
  unfold abandonPending; split
  · split <;> rfl
  · rfl
@[simp] theorem abandonPending_elen (s : State) : (abandonPending s).elen = s.elen := by
  unfold abandonPending; split
  · split <;> rfl
  · rfl
@[simp] theorem abandonPending_pend (s : State) : (abandonPending s).pend = s.pend := by
  unfold abandonPending; split
  · split <;> rfl
  · rfl
@[simp] theorem abandonPending_rdata (s : State) : (abandonPending s).rdata = s.rdata := by
  unfold abandonPending; split
  · split <;> rfl
  · rfl
@[simp] theorem abandonPending_inputs (s : State) : (abandonPending s).inputs = s.inputs := by
  unfold abandonPending; split
  · split <;> rfl
  · rfl
@[simp] theorem abandonPending_fresh (s : State) : (abandonPending s).fresh = s.fresh := by
  unfold abandonPending; split
  · split <;> rfl
  · rfl

/-! ### `softReset` -/

@[simp] theorem softReset_ctrlIE (s : State) : (softReset s).ctrlIE = false := rfl
@[simp] theorem softReset_status (s : State) : (softReset s).status = Status.clear := rfl
@[simp] theorem softReset_cmdLast (s : State) : (softReset s).cmdLast = 0#32 := rfl
@[simp] theorem softReset_argA (s : State) : (softReset s).argA = 0#8 := rfl
@[simp] theorem softReset_argB (s : State) : (softReset s).argB = 0#8 := rfl
@[simp] theorem softReset_result (s : State) : (softReset s).result = 0#8 := rfl
@[simp] theorem softReset_dlen (s : State) : (softReset s).dlen = 0#9 := rfl
@[simp] theorem softReset_elen (s : State) : (softReset s).elen = 0#5 := rfl
@[simp] theorem softReset_mem (s : State) : (softReset s).mem = (abandonPending s).mem := rfl
@[simp] theorem softReset_pend (s : State) : (softReset s).pend = { s.pend with valid := false } := rfl
@[simp] theorem softReset_rdata (s : State) : (softReset s).rdata = s.rdata := by simp [softReset]
@[simp] theorem softReset_inputs (s : State) : (softReset s).inputs = s.inputs := by simp [softReset]
@[simp] theorem softReset_fresh (s : State) : (softReset s).fresh = s.fresh := by simp [softReset]

/-! ### `hardReset` -/

@[simp] theorem hardReset_ctrlIE (s : State) : (hardReset s).ctrlIE = false := rfl
@[simp] theorem hardReset_status (s : State) : (hardReset s).status = Status.clear := rfl
@[simp] theorem hardReset_cmdLast (s : State) : (hardReset s).cmdLast = 0#32 := rfl
@[simp] theorem hardReset_argA (s : State) : (hardReset s).argA = 0#8 := rfl
@[simp] theorem hardReset_argB (s : State) : (hardReset s).argB = 0#8 := rfl
@[simp] theorem hardReset_result (s : State) : (hardReset s).result = 0#8 := rfl
@[simp] theorem hardReset_dlen (s : State) : (hardReset s).dlen = 0#9 := rfl
@[simp] theorem hardReset_elen (s : State) : (hardReset s).elen = 0#5 := rfl
@[simp] theorem hardReset_mem (s : State) : (hardReset s).mem = [] := rfl
@[simp] theorem hardReset_pend (s : State) : (hardReset s).pend = { valid := false, op := 0#4 } := rfl
@[simp] theorem hardReset_rdata (s : State) : (hardReset s).rdata = none := rfl
@[simp] theorem hardReset_inputs (s : State) : (hardReset s).inputs = s.inputs := rfl
@[simp] theorem hardReset_fresh (s : State) : (hardReset s).fresh = s.fresh := rfl

end Sys2Proof.Machine
end

