-- ==== Sys2Proof/Laws/Ops.lean ====
section
/-! SUPPORT. What each shared operation can do, said once: issue, a step of a command, a step of the block. -/

namespace Sys2Proof.Machine

/-- An issue is an acceptance or a rejection. -/
theorem issue_cases (i : Instr) (s : State) :
    (check i s = .none ∧ issue i s = accept i (beginIssue (encode i) s)) ∨
    (check i s ≠ .none ∧ issue i s = raiseError (check i s) (beginIssue (encode i) s)) := by
  unfold issue
  split
  · next h => exact .inl ⟨h, rfl⟩
  · next h => exact .inr ⟨h, rfl⟩

/-- A command that passed its checks has its operands in range. -/
theorem check_eq_none (i : Instr) (s : State) : check i s = .none ↔
    match i with
    | .nop | .gfMul | .gfExp => True
    | .gfLog | .gfInv => s.argA ≠ 0#8
    | .genPoly => 1 ≤ s.elen.toNat ∧ s.elen.toNat ≤ 30
    | .rsEncode | .polyMod | .syndrome => 1 ≤ s.elen.toNat ∧ s.elen.toNat ≤ 30 ∧ s.dlen.toNat ≤ 256
    | .polyMul => 1 ≤ s.elen.toNat ∧ s.elen.toNat ≤ 30 ∧ s.dlen.toNat + s.elen.toNat ≤ 256 := by
  cases i <;> simp only [check] <;> (try split_ifs) <;> (try simp only [Config.eMax, Config.bufSize] at *) <;>
    simp <;> omega

theorem runCommand_pending {i : Instr} {effect : State → State} {s : State} (h : s.pend.valid = true) :
    runCommand i effect s = .next (finish (effect s)) := by simp [runCommand, h]

theorem runCommand_idle {i : Instr} {effect : State → State} {s : State} (h : s.pend.valid = false) :
    runCommand i effect s = .next (issue i s) := by simp [runCommand, h]

/-- With the engine free, a command's step is its issue. -/
theorem exec_idle (i : Instr) {s : State} (h : s.pend.valid = false) : exec i s = .next (issue i s) := by
  cases i <;> simp [exec, execNop, execGfMul, execGfExp, execGfLog, execGfInv, execGenPoly, execRsEncode, execPolyMod,
    execPolyMul, execSyndrome, runCommand, h]

/-- What a command does at completion, before the status writes. -/
def effectOf (i : Instr) (s : State) : State :=
  match i with
  | .nop => s
  | .gfMul => storeResult (some (gfMul s.argA s.argB)) s
  | .gfExp => storeResult (some (expAt s.argA.toNat)) s
  | .gfLog => storeResult (logAt s.argA) s
  | .gfInv => storeResult (gfInv s.argA) s
  | .genPoly => storeBytes (genAddr 1) (lenE s) (some (genPolyResult s)) s
  | .rsEncode => storeBytes remBase (lenE s) (rsEncodeResult s) s
  | .polyMod => storeBytes remBase (lenE s) (polyModResult s) s
  | .polyMul => storeBytes bufBase (lenD s + lenE s) (polyMulResult s) s
  | .syndrome => storeBytes remBase (lenE s) (syndromeResult s) s

/-- With a command pending, its step is its completion. -/
theorem exec_pending (i : Instr) {s : State} (h : s.pend.valid = true) : exec i s = .next (finish (effectOf i s)) := by
  cases i <;> simp [exec, execNop, execGfMul, execGfExp, execGfLog, execGfInv, execGenPoly, execRsEncode, execPolyMod,
    execPolyMul, execSyndrome, runCommand, effectOf, h]

/-- A command's step never stops the machine. -/
theorem exec_next (i : Instr) (s : State) : ∃ t, exec i s = .next t := by
  cases h : s.pend.valid
  · exact ⟨_, exec_idle i h⟩
  · exact ⟨_, exec_pending i h⟩

/-- The registers an effect leaves alone: all but RESULT, the RAMs and the counter of free values. -/
theorem effectOf_frame (i : Instr) (s : State) :
    (effectOf i s).ctrlIE = s.ctrlIE ∧ (effectOf i s).status = s.status ∧ (effectOf i s).cmdLast = s.cmdLast ∧
    (effectOf i s).argA = s.argA ∧ (effectOf i s).argB = s.argB ∧ (effectOf i s).dlen = s.dlen ∧
    (effectOf i s).elen = s.elen ∧ (effectOf i s).pend = s.pend ∧ (effectOf i s).rdata = s.rdata ∧
    (effectOf i s).inputs = s.inputs := by
  cases i <;> simp [effectOf]

/-- A step of the block is one of four: the engine's slot, a transaction, or a hardware reset. -/
theorem step_engine {s : State} (h : s.inputs = [] ∨ ∃ rest, s.inputs = .engine :: rest) :
    step s = engineStep exec (takeInput s) := by
  rcases h with h | ⟨rest, h⟩ <;> simp [step, advance, h]

theorem step_host {s : State} {t : Transaction} {rest : List Input} (h : s.inputs = .host t :: rest) :
    step s = transact exec t (takeInput s) := by
  simp [step, advance, h]

theorem step_rst {s : State} {rest : List Input} (h : s.inputs = .rst :: rest) :
    step s = .next (hardReset (takeInput s)) := by
  simp [step, advance, h]

/-- An engine slot with a command pending is that command's step. -/
theorem engineStep_pending {run : Instr → State → Host.Outcome State Fault Refusal} {s : State} {i : Instr}
    (hv : s.pend.valid = true) (hi : s.pend.op = opcode i) : engineStep run s = run i s := by
  simp [engineStep, hv, hi]

theorem engineStep_free {run : Instr → State → Host.Outcome State Fault Refusal} {s : State}
    (hv : s.pend.valid = false) : engineStep run s = .next s := by
  simp [engineStep, hv]

theorem transact_read {run : Instr → State → Host.Outcome State Fault Refusal} {addr n : Nat} {s : State}
    (h : accessWf addr n = true) : transact run (.read addr n) s = .next (hostRead (locOf addr) s) := by
  simp [transact, Transaction.wf, h]

theorem transact_write {run : Instr → State → Host.Outcome State Fault Refusal} {addr n : Nat} {v : Word} {s : State}
    (h : accessWf addr n = true) : transact run (.write addr n v) s = hostWrite run (locOf addr) v s := by
  simp [transact, Transaction.wf, h]

/-- The only stop of a transaction is the refusal of a call that spells none. -/
theorem transact_cases (t : Transaction) (s : State) :
    (t.wf = true ∧ ∃ u, transact exec t s = .next u) ∨
    (t.wf = false ∧ transact exec t s = .refused .noTransaction) := by
  cases hw : t.wf
  · exact .inr ⟨rfl, by simp [transact, hw]⟩
  · refine .inl ⟨rfl, ?_⟩
    cases t with
    | read addr n => exact ⟨_, transact_read hw⟩
    | write addr n v =>
      rw [transact_write hw]
      unfold hostWrite
      split
      · unfold writeCmd
        split
        · exact ⟨_, rfl⟩
        · split
          · exact ⟨_, rfl⟩
          · exact exec_next _ _
      · split <;> exact ⟨_, rfl⟩

end Sys2Proof.Machine
end

