-- ==== Sys2Proof/Laws/PerInstr.lean ====
section
/-! SUPPORT. The statements made per command: its opcode names it, its word has reserved bits 0, and it is well-formed
(30_encoding.md R90 to R92, R94). -/

namespace Sys2Proof.Laws.OpcodeNamesCommand

/-- The opcode and the word of a command, read back. -/
def Statement (i : Instr) : Prop :=
  decodeOp (opcode i) = some i ∧ rsvField (encode i) = 0#28 ∧ opField (encode i) = opcode i ∧ i.wf = true

theorem nop : Statement .nop := by unfold Statement; decide
theorem gfMul : Statement .gfMul := by unfold Statement; decide
theorem gfExp : Statement .gfExp := by unfold Statement; decide
theorem gfLog : Statement .gfLog := by unfold Statement; decide
theorem gfInv : Statement .gfInv := by unfold Statement; decide
theorem genPoly : Statement .genPoly := by unfold Statement; decide
theorem rsEncode : Statement .rsEncode := by unfold Statement; decide
theorem polyMod : Statement .polyMod := by unfold Statement; decide
theorem polyMul : Statement .polyMul := by unfold Statement; decide
theorem syndrome : Statement .syndrome := by unfold Statement; decide

end Sys2Proof.Laws.OpcodeNamesCommand
end

