-- ==== Sys2Proof/Laws/Poly.lean ====
section
/-! SUPPORT. The lengths of the results of the polynomial commands, and what a completion does to the RAMs: it writes its
destination, all of it and nothing else (41_rs_poly.md R152). -/

namespace Sys2Proof.Machine

@[simp] theorem length_subScaled (c : Byte) (g w : List Byte) : (subScaled c g w).length = w.length := by
  induction g generalizing w with
  | nil => cases w <;> rfl
  | cons a g ih => cases w <;> simp [subScaled, ih]

/-- A division of n + e bytes leaves e bytes. -/
theorem length_of_sdiv {g : Option (List Byte)} {n e : Nat} {w r : List Byte} (h : sdiv g n w = some r)
    (hl : w.length = n + e) : r.length = e := by
  induction n generalizing w with
  | zero => cases Option.some.inj h; simpa using hl
  | succ n ih =>
    cases w with
    | nil => simp at hl; omega
    | cons c w =>
      have hw : w.length = n + e := by simp at hl; omega
      unfold sdiv at h
      split at h
      · exact ih h hw
      · split at h
        · exact ih h (by rw [length_subScaled, hw])
        · cases h

@[simp] theorem length_mulLinear (r : Byte) (t : List Byte) : (mulLinear r t).length = t.length + 1 := by
  simp [mulLinear]

@[simp] theorem length_genCoeffs (n : Nat) : (genCoeffs n).length = n + 1 := by
  induction n with
  | zero => rfl
  | succ n ih => rw [genCoeffs, length_mulLinear, ih]

@[simp] theorem length_convolve (b g : List Byte) (n : Nat) : (convolve b g n).length = n := by simp [convolve]

theorem length_genPolyResult (s : State) : (genPolyResult s).length = lenE s := by simp [genPolyResult]

theorem length_rsEncodeResult {s : State} {r : List Byte} (h : rsEncodeResult s = some r) : r.length = lenE s := by
  unfold rsEncodeResult at h
  split at h
  · next b hb => exact length_of_sdiv h (by simp [Memory.length_of_readBytes hb])
  · cases h

theorem length_polyModResult {s : State} {r : List Byte} (h : polyModResult s = some r) : r.length = lenE s := by
  unfold polyModResult at h
  split at h
  · next b hb => exact length_of_sdiv h (by simp [Memory.length_of_readBytes hb])
  · cases h

theorem length_polyMulResult {s : State} {r : List Byte} (h : polyMulResult s = some r) :
    r.length = lenD s + lenE s := by
  unfold polyMulResult at h
  split at h
  · next h0 => cases Option.some.inj h; simp [h0]
  · split at h
    · cases Option.some.inj h; simp
    · cases h

theorem length_syndromeResult {s : State} {r : List Byte} (h : syndromeResult s = some r) : r.length = lenE s := by
  unfold syndromeResult at h
  split at h
  · cases Option.some.inj h; simp
  · cases h

/-- A store writes `n` bytes from `base` on, the result's or free ones. -/
theorem storeBytes_writes {base n : Nat} {r : Option (List Byte)} (s : State)
    (h : ∀ bs, r = some bs → bs.length = n) :
    ∃ bs, bs.length = n ∧ (storeBytes base n r s).mem = s.mem.writeBytes base bs := by
  cases r with
  | none => exact ⟨freeBytes s.fresh n, length_freeBytes _ _, rfl⟩
  | some bs => exact ⟨bs, h bs rfl, rfl⟩

/-- What every command does to the RAMs at completion. -/
theorem effectOf_writes (i : Instr) (s : State) :
    ∃ bs, bs.length = (destination i s).2 ∧ (effectOf i s).mem = s.mem.writeBytes (destination i s).1 bs := by
  cases i
  case genPoly => exact storeBytes_writes s fun bs h => by cases Option.some.inj h; exact length_genPolyResult s
  case rsEncode => exact storeBytes_writes s fun bs h => length_rsEncodeResult h
  case polyMod => exact storeBytes_writes s fun bs h => length_polyModResult h
  case polyMul => exact storeBytes_writes s fun bs h => length_polyMulResult h
  case syndrome => exact storeBytes_writes s fun bs h => length_syndromeResult h
  all_goals exact ⟨[], rfl, by simp [effectOf, Memory.writeBytes]⟩

/-- The destination of a command that passed its checks lies in the RAMs. -/
theorem destination_isRam {i : Instr} {s : State} (h : check i s = .none) {k : Nat} (hk : k < (destination i s).2) :
    isRamOffset ((destination i s).1 + 4 * k) = true := by
  rw [check_eq_none] at h
  rw [isRamOffset_iff]
  cases i <;> simp only [destination, bufBase, genAddr, genBase, remBase] at h hk ⊢ <;> omega

end Sys2Proof.Machine
end

