-- ==== Sys2Proof/Laws/Safety.lean ====
section
/-! SUPPORT. Small laws of the invariant: which updates keep it, and what a pending command is under it. -/

namespace Sys2Proof.Machine

/-- Under `pendLegal` the pending opcode is that of one command, which passes its checks and whose word is CMD_LAST. -/
theorem pendLegal_cases {s : State} (h : pendLegal s = true) :
    ∃ i, s.pend.op = opcode i ∧ check i s = .none ∧ s.cmdLast = encode i := by
  unfold pendLegal at h
  split at h
  · next i hi => exact ⟨i, opcode_of_decodeOp hi, by simpa using h⟩
  · cases h

/-- An update that leaves the memory, the pending command, what the checks read and the status but for ACCERR keeps the
invariant. -/
theorem SoundState.of_same {s t : State} (hi : SoundState s) (hm : t.mem = s.mem) (hp : t.pend = s.pend)
    (ha : t.argA = s.argA) (hd : t.dlen = s.dlen) (he : t.elen = s.elen) (hc : t.cmdLast = s.cmdLast)
    (h1 : t.status.busy = s.status.busy) (h2 : t.status.done = s.status.done) (h3 : t.status.err = s.status.err)
    (h4 : t.status.ecode = s.status.ecode) : SoundState t := by
  have hchk : ∀ i, check i t = check i s := by intro i; cases i <;> simp [check, ha, hd, he]
  refine ⟨hm ▸ hi.memWf, hm ▸ hi.memRam, by rw [h1, hp]; exact hi.busyPend, by rw [h1, h2, h3]; exact hi.busyClear,
    by rw [h2, h3]; exact hi.doneErr, by rw [h3, h4]; exact hi.errCode, by rw [h4]; exact hi.codeRange, fun h => ?_⟩
  rw [hp] at h
  simpa [pendLegal, hp, hc, hchk] using hi.pendOk h

/-- With the engine free, any update of the operand registers and of RAM bytes that keeps the memory's form keeps the
invariant. -/
theorem SoundState.of_operands {s t : State} (hi : SoundState s) (hb : s.status.busy = false) (hp : t.pend = s.pend)
    (hst : t.status = s.status) (hw : t.mem.wf) (hr : ∀ c ∈ t.mem, isRamOffset c.1 = true) : SoundState t := by
  have hv : s.pend.valid = false := by rw [← hi.busyPend, hb]
  exact ⟨hw, hr, by rw [hst, hp]; exact hi.busyPend, by rw [hst]; exact hi.busyClear, by rw [hst]; exact hi.doneErr,
    by rw [hst]; exact hi.errCode, by rw [hst]; exact hi.codeRange, by rw [hp, hv]; simp⟩

/-- A write to a RAM offset keeps the memory inside the RAMs. -/
theorem memRam_write {m : Memory} (h : ∀ c ∈ m, isRamOffset c.1 = true) {a : Nat} (ha : isRamOffset a = true)
    (v : Byte) : ∀ c ∈ m.write a v, isRamOffset c.1 = true := by
  intro c hc
  rcases Memory.mem_write hc with rfl | hc
  · exact ha
  · exact h c hc

/-- The memory after a soft reset is part of the memory before. -/
theorem softReset_mem_subset (s : State) : ∀ c ∈ (softReset s).mem, c ∈ s.mem := by
  intro c hc
  rw [softReset_mem] at hc
  unfold abandonPending at hc
  split at hc
  · split at hc
    · exact Memory.mem_eraseBytes hc
    · exact hc
  · exact hc

/-- A run of one step more. -/
theorem run_succ {k : Nat} {s t : State} (h : step s = .next t) :
    Host.Core.run core (k + 1) s = Host.Core.run core k t := by
  have key : ∀ (M : Host.Core) {s t : M.State}, M.step s = .next t → M.run (k + 1) s = M.run k t := by
    intro M s t h
    simp only [Host.Core.run, h]
  exact key core h

end Sys2Proof.Machine
end

