-- ==== Sys2Proof/Tests/Slice0.lean ====
section
/-! SUPPORT. The model's own tests. Expected values are the spec's: 30_encoding.md for the words, 95_test_vectors.md (named
V-...) for the results. The last part shows, for every statement with hypotheses, states and operands that meet them. -/

namespace Sys2Proof.Tests
open Sys2Proof Sys2Proof.Machine Sys2Proof.Claims

/-! ### Well-formedness: one ill-formed term for each check -/

theorem test_wf_access_size : Transaction.wf (.read 0x008 2) = false := by decide
theorem test_wf_access_alignment : Transaction.wf (.write 0x006 4 0#32) = false := by decide
theorem test_wf_access_window : Transaction.wf (.read 0x1000 4) = false := by decide
theorem test_wf_access_top : Transaction.wf (.write 0xFFC 4 1#32) = true := by decide
theorem test_wf_input_transaction : Input.wf (.host (.read 0x1000 4)) = false := by decide
theorem test_wf_buf_index : Loc.wf (.buf 256) = false ∧ Loc.wf (.buf 255) = true := by decide
theorem test_wf_gen_index : Loc.wf (.gen 31) = false ∧ Loc.wf (.gen 30) = true := by decide
theorem test_wf_rem_index : Loc.wf (.rem 30) = false ∧ Loc.wf (.rem 29) = true := by decide
theorem test_wf_unmapped_mapped : Loc.wf (.unmapped 0x020) = false ∧ Loc.wf (.unmapped 0x024) = true := by decide
theorem test_wf_unmapped_alignment : Loc.wf (.unmapped 0x026) = false := by decide
theorem test_wf_unmapped_window : Loc.wf (.unmapped 0x1000) = false := by decide

/-! ### Decoding: OP in bits 3:0, RSV = 0 in bits 31:4 (30_encoding.md R90, R92) -/

theorem test_decode_nop : decode 0b0000000000000000000000000000_0000#32 = .cmd .nop := by decide
theorem test_decode_gfMul : decode 0b0000000000000000000000000000_0001#32 = .cmd .gfMul := by decide
theorem test_decode_gfExp : decode 0b0000000000000000000000000000_0010#32 = .cmd .gfExp := by decide
theorem test_decode_gfLog : decode 0b0000000000000000000000000000_0011#32 = .cmd .gfLog := by decide
theorem test_decode_gfInv : decode 0b0000000000000000000000000000_0100#32 = .cmd .gfInv := by decide
theorem test_decode_genPoly : decode 0b0000000000000000000000000000_0101#32 = .cmd .genPoly := by decide
theorem test_decode_rsEncode : decode 0b0000000000000000000000000000_0110#32 = .cmd .rsEncode := by decide
theorem test_decode_polyMod : decode 0b0000000000000000000000000000_0111#32 = .cmd .polyMod := by decide
theorem test_decode_polyMul : decode 0b0000000000000000000000000000_1000#32 = .cmd .polyMul := by decide
theorem test_decode_syndrome : decode 0b0000000000000000000000000000_1001#32 = .cmd .syndrome := by decide
/-- The six reserved opcodes (R93). -/
theorem test_decode_reserved_opcodes :
    decode 0b0000000000000000000000000000_1010#32 = .illegal .reservedOpcode ∧
    decode 0b0000000000000000000000000000_1011#32 = .illegal .reservedOpcode ∧
    decode 0b0000000000000000000000000000_1100#32 = .illegal .reservedOpcode ∧
    decode 0b0000000000000000000000000000_1101#32 = .illegal .reservedOpcode ∧
    decode 0b0000000000000000000000000000_1110#32 = .illegal .reservedOpcode ∧
    decode 0b0000000000000000000000000000_1111#32 = .illegal .reservedOpcode := by decide
/-- A reserved bit set, the lowest and the highest (R91). -/
theorem test_decode_reserved_bits :
    decode 0b0000000000000000000000000001_0001#32 = .illegal .reservedBits ∧
    decode 0b1000000000000000000000000000_0001#32 = .illegal .reservedBits := by decide

/-! ### Commands, one step each -/

/-- The state after a step that was not stopped. -/
def after (o : Host.Outcome State Fault Refusal) : Option State :=
  match o with
  | .next t => some t
  | .fault _ | .refused _ => none

/-- An engine with a command accepted and not completed, after a reset. -/
def pending (i : Instr) : State :=
  { State.reset with
    cmdLast := encode i
    pend := { valid := true, op := opcode i }
    status := { busy := true, done := false, err := false, accerr := false, ecode := 0#4 } }

/-- A state with D, E, the bytes of BUF and the bytes of GEN from GEN[1] on. -/
def loaded (s : State) (d e : Nat) (b g : List Byte) : State :=
  { s with
    dlen := BitVec.ofNat 9 d
    elen := BitVec.ofNat 5 e
    mem := (s.mem.writeBytes 0x400 b).writeBytes 0x804 g }

/-- Bytes of the RAMs after a step. -/
def bytesAfter (o : Host.Outcome State Fault Refusal) (base n : Nat) : Option (List Byte) :=
  match after o with
  | some t => t.mem.readBytes base n
  | none => none

/-- V-NOP-1: accepted with ELEN = 0 and DLEN = 511. -/
theorem test_nop_accepted :
    (after (exec .nop { State.reset with dlen := 511#9 })).map (fun t => t.status.word) = some 0x00000001#32 := by
  decide
/-- V-NOP-1: STATUS after the completion. -/
theorem test_nop_completes :
    (after (exec .nop (pending .nop))).map (fun t => t.status.word) = some 0x00000002#32 := by decide
/-- V-MUL-7. -/
theorem test_gfMul_all_ones :
    (after (exec .gfMul { pending .gfMul with argA := 0xFF#8, argB := 0xFF#8 })).map (fun t => t.result)
      = some 0xE2#8 := by decide
/-- V-MUL-12. -/
theorem test_gfMul_mixed :
    (after (exec .gfMul { pending .gfMul with argA := 0xB7#8, argB := 0x40#8 })).map (fun t => t.result)
      = some 0xC6#8 := by decide
/-- V-EXP-11. -/
theorem test_gfExp_last_power :
    (after (exec .gfExp { pending .gfExp with argA := 254#8 })).map (fun t => t.result) = some 0x8E#8 := by decide
/-- V-EXP-12. -/
theorem test_gfExp_wraps :
    (after (exec .gfExp { pending .gfExp with argA := 255#8 })).map (fun t => t.result) = some 0x01#8 := by rfl
/-- V-LOG-9. -/
theorem test_gfLog_completes :
    (after (exec .gfLog { pending .gfLog with argA := 0x53#8 })).map (fun t => t.result) = some 206#8 := by decide
/-- V-LOG-10. -/
theorem test_gfLog_zero :
    (after (exec .gfLog State.reset)).map (fun t => t.status.word) = some 0x00000204#32 := by decide
/-- V-INV-5. -/
theorem test_gfInv_completes :
    (after (exec .gfInv { pending .gfInv with argA := 0x53#8 })).map (fun t => t.result) = some 0x8C#8 := by decide
/-- V-INV-9. -/
theorem test_gfInv_zero :
    (after (exec .gfInv State.reset)).map (fun t => t.status.word) = some 0x00000304#32 := by decide
/-- V-GEN-5, written from GEN[1] (offset 0x804) on. -/
theorem test_genPoly_completes :
    bytesAfter (exec .genPoly (loaded (pending .genPoly) 0 7 [] [])) 0x804 7
      = some [0x7F#8, 0x7A#8, 0x9A#8, 0xA4#8, 0x0B#8, 0x44#8, 0x75#8] := by decide +kernel
/-- V-GEN-10. -/
theorem test_genPoly_elen_31 :
    (after (exec .genPoly { State.reset with elen := 31#5 })).map (fun t => t.status.word) = some 0x00000404#32 := by
  decide
/-- V-RS-9. -/
theorem test_rsEncode_completes :
    bytesAfter (exec .rsEncode (loaded (pending .rsEncode) 3 2 [0x12#8, 0x34#8, 0x56#8] [0x03#8, 0x02#8])) 0xC00 2
      = some [0x98#8, 0xE8#8] := by decide
/-- V-RS-13: BAD_ELEN before BAD_LEN. -/
theorem test_rsEncode_check_order :
    (after (exec .rsEncode { State.reset with dlen := 300#9 })).map (fun t => t.status.word)
      = some 0x00000404#32 := by decide
/-- V-MOD-9. -/
theorem test_polyMod_completes :
    bytesAfter (exec .polyMod (loaded (pending .polyMod) 3 2 [0xAA#8, 0xBB#8, 0xCC#8] [0x03#8, 0x02#8])) 0xC00 2
      = some [0x58#8, 0x85#8] := by decide
/-- V-MOD-1: D < E, right-aligned; GEN is not read. -/
theorem test_polyMod_short :
    bytesAfter (exec .polyMod (loaded (pending .polyMod) 1 2 [0x05#8] [])) 0xC00 2 = some [0x00#8, 0x05#8] := by
  decide
/-- V-PMUL-4. -/
theorem test_polyMul_completes :
    bytesAfter (exec .polyMul (loaded (pending .polyMul) 3 2 [0x12#8, 0x34#8, 0x56#8] [0x03#8, 0x02#8])) 0x400 5
      = some [0x12#8, 0x02#8, 0x2E#8, 0x92#8, 0xAC#8] := by decide
/-- V-PMUL-5. -/
theorem test_polyMul_too_long :
    (after (exec .polyMul { State.reset with dlen := 227#9, elen := 30#5 })).map (fun t => t.status.word)
      = some 0x00000504#32 := by decide
/-- V-SYN-7. -/
theorem test_syndrome_completes :
    bytesAfter (exec .syndrome (loaded (pending .syndrome) 2 3 [0xAA#8, 0xBB#8] [])) 0xC00 3
      = some [0x11#8, 0xF2#8, 0x29#8] := by decide +kernel
/-- V-SYN-8. -/
theorem test_syndrome_too_long :
    (after (exec .syndrome { State.reset with dlen := 511#9, elen := 3#5 })).map (fun t => t.status.word)
      = some 0x00000504#32 := by decide

/-! ### The port and the resets, one step each -/

/-- V-BUS-4, its write. -/
theorem test_bus_elen_reserved_bits :
    (after (step { State.reset with inputs := [.host (.write 0x020 4 0x25#32)] })).map (fun t => t.elen)
      = some 5#5 := by decide
/-- V-BUS-5, its write at 0x40C. -/
theorem test_bus_buf_write :
    bytesAfter (step { State.reset with inputs := [.host (.write 0x40C 4 0xFFFFFF80#32)] }) 0x40C 1
      = some [0x80#8] := by decide
/-- V-BUS-6. -/
theorem test_bus_gen0 :
    (after (step { State.reset with inputs := [.host (.read 0x800 4)] })).map (fun t => t.rdata)
      = some (some 0x00000001#32) := by decide
/-- V-BUS-12. -/
theorem test_bus_unmapped :
    (after (step { State.reset with inputs := [.host (.read 0x87C 4)] })).map (fun t => (t.rdata, t.status.word))
      = some (some 0#32, 0x00000008#32) := by rfl
/-- V-BUS-16. -/
theorem test_bus_status_clear :
    (after (step { State.reset with
      status := { busy := false, done := false, err := true, accerr := true, ecode := 2#4 }
      inputs := [.host (.write 0x008 4 8#32)] })).map (fun t => t.status.word) = some 0x00000204#32 := by decide
/-- V-BUS-19. -/
theorem test_bus_blocked_read :
    (after (step { pending .polyMul with inputs := [.host (.read 0x400 4)] })).map
      (fun t => (t.rdata, t.status.word)) = some (some 0#32, 0x00000009#32) := by decide
/-- V-RST-2, its CTRL and ELEN. -/
theorem test_reset_soft :
    (after (step { State.reset with ctrlIE := true, elen := 10#5, inputs := [.host (.write 0x004 4 3#32)] })).map
      (fun t => (t.ctrlIE, t.elen)) = some (false, 0#5) := by decide
/-- V-RST-4, its BUF[4] and BUF[5]. -/
theorem test_reset_abandons :
    (after (step { loaded (pending .polyMul) 3 2 [1#8, 2#8, 3#8, 4#8, 5#8, 6#8] [] with
      inputs := [.host (.write 0x004 4 2#32)] })).map (fun t => (t.mem.read 0x410, t.mem.read 0x414))
      = some (none, some 6#8) := by decide

/-! ### Witnesses: states and operands that meet the hypotheses of each statement, at the ends of their ranges -/

/-- A state with what comes next from outside. -/
def before (s : State) (l : List Input) : State := { s with inputs := l }

/-- For every D and E that a command may have there is a pending state with all its operand bytes written. -/
theorem witness_operands (i : Instr) (d e : Nat) (hd : d ≤ 256) (h1 : 1 ≤ e) (h2 : e ≤ 30) (b g : List Byte)
    (hb : b.length = d) (hg : g.length = e) :
    ∃ s : State, Pending i s ∧ GoodElen s ∧ s.dlen.toNat = d ∧ s.elen.toNat = e ∧
      s.mem.readBytes 0x400 s.dlen.toNat = some b ∧ s.mem.readBytes 0x804 s.elen.toNat = some g := by
  have hd' : (loaded (pending i) d e b g).dlen.toNat = d := by simp [loaded]; omega
  have he' : (loaded (pending i) d e b g).elen.toNat = e := by simp [loaded]; omega
  refine ⟨loaded (pending i) d e b g, ⟨rfl, rfl, rfl⟩, ⟨by omega, by omega⟩, hd', he', ?_, ?_⟩
  · rw [hd', ← hb]
    refine Memory.readBytes_writeBytes_other (fun k j hk hj => ?_) (Memory.readBytes_writeBytes _ _ _)
    omega
  · rw [he', ← hg]
    exact Memory.readBytes_writeBytes _ _ _

/-- Both ends of D and E, with nonzero data. -/
theorem witness_operands_ends (i : Instr) :
    (∃ (s : State) (b g : List Byte), Pending i s ∧ GoodElen s ∧ s.dlen.toNat = 0 ∧ s.elen.toNat = 1 ∧
      s.mem.readBytes 0x400 s.dlen.toNat = some b ∧ s.mem.readBytes 0x804 s.elen.toNat = some g) ∧
    (∃ (s : State) (b g : List Byte), Pending i s ∧ GoodElen s ∧ s.dlen.toNat = 256 ∧ s.elen.toNat = 30 ∧
      s.mem.readBytes 0x400 s.dlen.toNat = some b ∧ s.mem.readBytes 0x804 s.elen.toNat = some g) := by
  refine ⟨?_, ?_⟩
  · obtain ⟨s, h⟩ := witness_operands i 0 1 (by omega) (by omega) (by omega) [] [1#8] rfl rfl
    exact ⟨s, _, _, h⟩
  · obtain ⟨s, h⟩ := witness_operands i 256 30 (by omega) (by omega) (by omega) (List.replicate 256 1#8)
      (List.replicate 30 1#8) List.length_replicate List.length_replicate
    exact ⟨s, _, _, h⟩

/-! Encoding and steps. -/

theorem witness_CommandWordsDecodeAndEncode :
    (0x00000000#32, Instr.nop) ∈ commandWords ∧ (0x00000009#32, Instr.syndrome) ∈ commandWords := by decide
theorem witness_DecoderReadsExactlyTenWords :
    (0x00000010#32).toNat / 16 ≠ 0 ∧ (0xFFFFFFFF#32).toNat / 16 ≠ 0 ∧
    ((0xA#32).toNat / 16 = 0 ∧ 0xA ≤ (0xA#32).toNat % 16) ∧ ((0xF#32).toNat / 16 = 0 ∧ 0xA ≤ (0xF#32).toNat % 16) := by
  decide
theorem witness_TableWordDecodesExactlyToItsEncoding : Instr.wf .nop = true ∧ Instr.wf .syndrome = true := by decide
theorem witness_IllegalWordIsRejected :
    (Next (.host (.write 0x00C 4 0xA#32)) (before State.reset [.host (.write 0x00C 4 0xA#32)]) ∧
      Idle (before State.reset [.host (.write 0x00C 4 0xA#32)]) ∧ 0xA ≤ (0xA#32).toNat % 16) ∧
    (Next (.host (.write 0x00C 4 0x10#32)) (before State.reset [.host (.write 0x00C 4 0x10#32)]) ∧
      Idle (before State.reset [.host (.write 0x00C 4 0x10#32)]) ∧ (0x10#32).toNat / 16 ≠ 0) ∧
    ((9#32).toNat / 16 = 0 ∧ (9#32).toNat % 16 < 0xA) := by
  refine ⟨⟨rfl, ⟨rfl, rfl⟩, by decide⟩, ⟨rfl, ⟨rfl, rfl⟩, by decide⟩, by decide⟩
theorem witness_CmdWriteRunsTheDecodedCommand : ∃ (s : State) (cw : Word) (i : Instr),
    Next (.host (.write 0x00C 4 cw)) s ∧ s.status.busy = false ∧ decode cw = .cmd i :=
  ⟨before State.reset [.host (.write 0x00C 4 9#32)], 9#32, .syndrome, rfl, rfl, by decide⟩
theorem witness_EngineMoveRunsThePendingCommand :
    (EngineNext (pending .nop) ∧ (pending .nop).pend.valid = true ∧ (pending .nop).pend.op = opcode .nop) ∧
    (EngineNext (before (pending .syndrome) [.engine, .rst]) ∧
      (before (pending .syndrome) [.engine, .rst]).pend.valid = true) ∧
    (EngineNext State.reset ∧ State.reset.pend.valid = false) :=
  ⟨⟨.inl rfl, rfl, rfl⟩, ⟨.inr rfl, rfl⟩, ⟨.inl rfl, rfl⟩⟩
theorem witness_CmdWriteFollowsTheIssueRule :
    (Next (.host (.write 0x00C 4 5#32)) (before State.reset [.host (.write 0x00C 4 5#32)]) ∧
      (before State.reset [.host (.write 0x00C 4 5#32)]).status.busy =
        (before State.reset [.host (.write 0x00C 4 5#32)]).pend.valid) ∧
    (Next (.host (.write 0x00C 4 5#32)) (before (pending .nop) [.host (.write 0x00C 4 5#32)]) ∧
      (before (pending .nop) [.host (.write 0x00C 4 5#32)]).status.busy =
        (before (pending .nop) [.host (.write 0x00C 4 5#32)]).pend.valid) :=
  ⟨⟨rfl, rfl⟩, ⟨rfl, rfl⟩⟩

/-- A sound state with POLY_MUL pending at the largest D + E. -/
def pendingMul : State := { pending .polyMul with dlen := 226#9, elen := 30#5 }

theorem sound_before {s : State} (h : SoundState s) (l : List Input) : SoundState (before s l) :=
  ⟨h.1, h.2, h.3, h.4, h.5, h.6, h.7, h.8⟩
theorem pendingMul_sound (l : List Input) : SoundState (before pendingMul l) :=
  sound_before (by constructor <;> decide) l
theorem reset_sound (l : List Input) : SoundState (before State.reset l) :=
  sound_before (by constructor <;> decide) l

theorem witness_PendingCommandAndOperandsAreHeld : ∃ (s t : State) (x : Transaction), SoundState s ∧
    s.pend.valid = true ∧ Next (.host x) s ∧ inputResets (.host x) = false ∧ step s = .next t :=
  ⟨before pendingMul [.host (.write 0x004 4 1#32)], _, .write 0x004 4 1#32, pendingMul_sound _, rfl, rfl, by decide, rfl⟩
theorem witness_CompletionMakesItsStatusWrites (i : Instr) :
    EngineNext (pending i) ∧ EngineNext (before (pending i) [.engine]) ∧ Pending i (pending i) :=
  ⟨.inl rfl, .inr rfl, rfl, rfl, rfl⟩
theorem witness_CommandWritesExactlyItsDestination (i : Instr) : Pending i (pending i) := ⟨rfl, rfl, rfl⟩

/-! The scalar commands. -/

theorem witness_GfMulFollowsItsRule : Idle State.reset ∧ Pending .gfMul (pending .gfMul) :=
  ⟨⟨rfl, rfl⟩, rfl, rfl, rfl⟩
theorem witness_GfExpFollowsItsRule : Idle State.reset ∧ Pending .gfExp (pending .gfExp) :=
  ⟨⟨rfl, rfl⟩, rfl, rfl, rfl⟩
theorem witness_GfLogFollowsItsRule :
    (Idle State.reset ∧ State.reset.argA = 0x00#8) ∧
    (∃ s : State, Idle s ∧ s.argA = 0x01#8 ∧ s.argA ≠ 0x00#8) ∧
    (∃ s : State, Pending .gfLog s ∧ s.argA = 0xFF#8 ∧ s.argA ≠ 0x00#8) :=
  ⟨⟨⟨rfl, rfl⟩, rfl⟩, ⟨{ State.reset with argA := 0x01#8 }, ⟨rfl, rfl⟩, rfl, by decide⟩,
    ⟨{ pending .gfLog with argA := 0xFF#8 }, ⟨rfl, rfl, rfl⟩, rfl, by decide⟩⟩
theorem witness_GfInvFollowsItsRule :
    (Idle State.reset ∧ State.reset.argA = 0x00#8) ∧
    (∃ s : State, Idle s ∧ s.argA = 0x01#8 ∧ s.argA ≠ 0x00#8) ∧
    (∃ s : State, Pending .gfInv s ∧ s.argA = 0xFF#8 ∧ s.argA ≠ 0x00#8) :=
  ⟨⟨⟨rfl, rfl⟩, rfl⟩, ⟨{ State.reset with argA := 0x01#8 }, ⟨rfl, rfl⟩, rfl, by decide⟩,
    ⟨{ pending .gfInv with argA := 0xFF#8 }, ⟨rfl, rfl, rfl⟩, rfl, by decide⟩⟩
theorem witness_ResultIsWrittenOnlyByScalarCommands :
    Idle State.reset ∧ (Pending .nop (pending .nop) ∧ Instr.nop ∉ [Instr.gfMul, .gfExp, .gfLog, .gfInv]) ∧
    (Pending .syndrome (pending .syndrome) ∧ Instr.syndrome ∉ [Instr.gfMul, .gfExp, .gfLog, .gfInv]) ∧
    Pending .gfInv (pending .gfInv) ∧
    (∃ s t : State, s.status.busy = s.pend.valid ∧ step s = .next t ∧ t.result ≠ s.result) ∧
    (Next (.host (.write 0x004 4 2#32)) (before State.reset [.host (.write 0x004 4 2#32)]) ∧
      (2#32).getLsbD 1 = true) ∧
    Next .rst (before State.reset [.rst]) ∧
    (Next (.host (.read 0x018 4)) (before State.reset [.host (.read 0x018 4)]) ∧
      (before State.reset [.host (.read 0x018 4)]).status.busy = false) :=
  ⟨⟨rfl, rfl⟩, ⟨⟨rfl, rfl, rfl⟩, by decide⟩, ⟨⟨rfl, rfl, rfl⟩, by decide⟩, ⟨rfl, rfl, rfl⟩,
    ⟨{ State.reset with result := 5#8, inputs := [.rst] }, _, rfl, rfl, by decide⟩, ⟨rfl, by decide⟩, rfl, rfl, rfl⟩

/-! The polynomial commands. -/

theorem witness_NopFollowsItsRule : Idle State.reset ∧ Pending .nop (pending .nop) := ⟨⟨rfl, rfl⟩, rfl, rfl, rfl⟩

/-- Idle states on both sides of the checks: E = 0, 31, 1 and 30; D = 256 and 257; D + E = 256 and 257. -/
theorem witness_issue_checks :
    (Idle State.reset ∧ ¬GoodElen State.reset) ∧
    (∃ s : State, Idle s ∧ ¬GoodElen s ∧ s.elen.toNat = 31) ∧
    (∃ s : State, Idle s ∧ GoodElen s ∧ s.elen.toNat = 1 ∧ s.dlen.toNat ≤ 256 ∧ s.dlen.toNat + s.elen.toNat ≤ 256) ∧
    (∃ s : State, Idle s ∧ GoodElen s ∧ s.elen.toNat = 30 ∧ s.dlen.toNat = 256) ∧
    (∃ s : State, Idle s ∧ GoodElen s ∧ s.dlen.toNat = 257) ∧
    (∃ s : State, Idle s ∧ GoodElen s ∧ s.dlen.toNat + s.elen.toNat = 256) ∧
    (∃ s : State, Idle s ∧ GoodElen s ∧ s.dlen.toNat + s.elen.toNat = 257) := by
  refine ⟨⟨⟨rfl, rfl⟩, fun h => absurd h.1 (by decide)⟩,
    ⟨{ State.reset with elen := 31#5 }, ⟨rfl, rfl⟩, fun h => absurd h.2 (by decide), rfl⟩,
    ⟨{ State.reset with elen := 1#5 }, ⟨rfl, rfl⟩, ⟨by decide, by decide⟩, rfl, by decide, by decide⟩,
    ⟨{ State.reset with elen := 30#5, dlen := 256#9 }, ⟨rfl, rfl⟩, ⟨by decide, by decide⟩, rfl, rfl⟩,
    ⟨{ State.reset with elen := 1#5, dlen := 257#9 }, ⟨rfl, rfl⟩, ⟨by decide, by decide⟩, rfl⟩,
    ⟨{ State.reset with elen := 30#5, dlen := 226#9 }, ⟨rfl, rfl⟩, ⟨by decide, by decide⟩, rfl⟩,
    ⟨{ State.reset with elen := 30#5, dlen := 227#9 }, ⟨rfl, rfl⟩, ⟨by decide, by decide⟩, rfl⟩⟩

theorem witness_GenPolyFollowsItsRule :
    (∃ s : State, Pending .genPoly s ∧ GoodElen s ∧ s.elen.toNat = 1) ∧
    (∃ s : State, Pending .genPoly s ∧ GoodElen s ∧ s.elen.toNat = 30) :=
  ⟨⟨{ pending .genPoly with elen := 1#5 }, ⟨rfl, rfl, rfl⟩, ⟨by decide, by decide⟩, rfl⟩,
    ⟨{ pending .genPoly with elen := 30#5 }, ⟨rfl, rfl, rfl⟩, ⟨by decide, by decide⟩, rfl⟩⟩
theorem witness_GeneratorsAreTheTabulatedOnes :
    ([0x03#8, 0x02#8], [25#8, 1#8]) ∈ generatorTable ∧
    ∃ s : State, Pending .genPoly s ∧ s.elen.toNat = [0x03#8, 0x02#8].length :=
  ⟨.tail _ (.head _), { pending .genPoly with elen := 2#5 }, ⟨rfl, rfl, rfl⟩, rfl⟩
/-- V-RS-9: the array, the generator, the number of rounds. -/
theorem witness_SyntheticDivisionGivesTheUniqueRemainder :
    [0x12#8, 0x34#8, 0x56#8, 0x00#8, 0x00#8].length = 3 + [0x03#8, 0x02#8].length := rfl
theorem witness_RsEncodeFollowsItsRule :
    (∃ (s : State) (b g : List Byte), Pending .rsEncode s ∧ GoodElen s ∧
      s.mem.readBytes 0x400 s.dlen.toNat = some b ∧ s.mem.readBytes 0x804 s.elen.toNat = some g) ∧
    (∃ s : State, Pending .rsEncode s ∧ GoodElen s ∧ s.dlen.toNat = 0 ∧
      s.mem.readBytes 0x400 s.dlen.toNat = some (List.replicate s.dlen.toNat 0x00#8)) ∧
    (∃ s : State, Pending .rsEncode s ∧ GoodElen s ∧ s.dlen.toNat = 256 ∧
      s.mem.readBytes 0x400 s.dlen.toNat = some (List.replicate s.dlen.toNat 0x00#8)) := by
  refine ⟨?_, ?_, ?_⟩
  · obtain ⟨s, b, g, h1, h2, -, -, h3, h4⟩ := (witness_operands_ends .rsEncode).2
    exact ⟨s, b, g, h1, h2, h3, h4⟩
  · obtain ⟨s, h1, h2, h3, -, h4, -⟩ := witness_operands .rsEncode 0 1 (by omega) (by omega) (by omega) [] [1#8] rfl rfl
    exact ⟨s, h1, h2, h3, by rw [h4, h3]; rfl⟩
  · obtain ⟨s, h1, h2, h3, -, h4, -⟩ := witness_operands .rsEncode 256 30 (by omega) (by omega) (by omega)
      (List.replicate 256 0#8) (List.replicate 30 1#8) List.length_replicate List.length_replicate
    exact ⟨s, h1, h2, h3, by rw [h4, h3]⟩
theorem witness_PolyModFollowsItsRule :
    (∃ (s : State) (b g : List Byte), Pending .polyMod s ∧ GoodElen s ∧ s.elen.toNat ≤ s.dlen.toNat ∧
      s.mem.readBytes 0x400 s.dlen.toNat = some b ∧ s.mem.readBytes 0x804 s.elen.toNat = some g) ∧
    (∃ (s : State) (b : List Byte), Pending .polyMod s ∧ GoodElen s ∧ s.dlen.toNat ≤ s.elen.toNat ∧
      s.dlen.toNat = 0 ∧ s.mem.readBytes 0x400 s.dlen.toNat = some b) ∧
    (∃ (s : State) (b g : List Byte), Pending .polyMod s ∧ GoodElen s ∧ s.dlen.toNat = s.elen.toNat ∧
      s.mem.readBytes 0x400 s.dlen.toNat = some b ∧ s.mem.readBytes 0x804 s.elen.toNat = some g) ∧
    (∃ (s : State) (b : List Byte), Pending .polyMod s ∧ GoodElen s ∧ s.elen.toNat ≤ s.dlen.toNat ∧
      s.mem.readBytes 0x400 s.dlen.toNat = some b ∧
      s.mem.readBytes 0x804 s.elen.toNat = some (List.replicate s.elen.toNat 0x00#8)) := by
  refine ⟨?_, ?_, ?_, ?_⟩
  · obtain ⟨s, b, g, h1, h2, hd, he, h3, h4⟩ := (witness_operands_ends .polyMod).2
    exact ⟨s, b, g, h1, h2, by omega, h3, h4⟩
  · obtain ⟨s, b, g, h1, h2, hd, he, h3, -⟩ := (witness_operands_ends .polyMod).1
    exact ⟨s, b, h1, h2, by omega, hd, h3⟩
  · obtain ⟨s, h1, h2, hd, he, h3, h4⟩ := witness_operands .polyMod 30 30 (by omega) (by omega) (by omega)
      (List.replicate 30 1#8) (List.replicate 30 1#8) List.length_replicate List.length_replicate
    exact ⟨s, _, _, h1, h2, by omega, h3, h4⟩
  · obtain ⟨s, h1, h2, hd, he, h3, h4⟩ := witness_operands .polyMod 256 30 (by omega) (by omega) (by omega)
      (List.replicate 256 1#8) (List.replicate 30 0#8) List.length_replicate List.length_replicate
    exact ⟨s, _, h1, h2, by omega, h3, by rw [h4, he]⟩
theorem witness_PolyMulFollowsItsRule :
    (∃ (s : State) (b g : List Byte), Pending .polyMul s ∧ GoodElen s ∧ s.dlen.toNat + s.elen.toNat = 256 ∧
      s.mem.readBytes 0x400 s.dlen.toNat = some b ∧ s.mem.readBytes 0x804 s.elen.toNat = some g) ∧
    (∃ s : State, Pending .polyMul s ∧ GoodElen s ∧ s.dlen.toNat = 0) := by
  refine ⟨?_, ?_⟩
  · obtain ⟨s, h1, h2, hd, he, h3, h4⟩ := witness_operands .polyMul 226 30 (by omega) (by omega) (by omega)
      (List.replicate 226 1#8) (List.replicate 30 1#8) List.length_replicate List.length_replicate
    exact ⟨s, _, _, h1, h2, by omega, h3, h4⟩
  · obtain ⟨s, b, g, h1, h2, hd, -⟩ := (witness_operands_ends .polyMul).1
    exact ⟨s, h1, h2, hd⟩
theorem witness_SyndromeFollowsItsRule :
    ∃ (s : State) (b : List Byte), Pending .syndrome s ∧ GoodElen s ∧ s.dlen.toNat = 256 ∧
      s.mem.readBytes 0x400 s.dlen.toNat = some b := by
  obtain ⟨s, b, g, h1, h2, hd, -, h3, -⟩ := (witness_operands_ends .syndrome).2
  exact ⟨s, b, h1, h2, hd, h3⟩

/-- W1, V-RS-9 and V-MOD-10's form: the data, its ECC, and the block behind them. -/
theorem witness_EncodedBlockIsDivisible :
    ∃ (s t u : State) (b g : List Byte), Pending .rsEncode s ∧ GoodElen s ∧ s.dlen.toNat + s.elen.toNat ≤ 256 ∧
      s.mem.readBytes 0x400 s.dlen.toNat = some b ∧ s.mem.readBytes 0x804 s.elen.toNat = some g ∧
      exec .rsEncode s = .next t ∧
      Pending .polyMod u ∧ u.elen = s.elen ∧ u.dlen.toNat = s.dlen.toNat + s.elen.toNat ∧
      (∀ i, i < s.dlen.toNat → u.mem.read (0x400 + 4 * i) = t.mem.read (0x400 + 4 * i)) ∧
      (∀ j, j < s.elen.toNat → u.mem.read (0x400 + 4 * (s.dlen.toNat + j)) = t.mem.read (0xC00 + 4 * j)) ∧
      (∀ k, 1 ≤ k → k ≤ s.elen.toNat → u.mem.read (0x800 + 4 * k) = t.mem.read (0x800 + 4 * k)) := by
  refine ⟨loaded (pending .rsEncode) 3 2 [0x12#8, 0x34#8, 0x56#8] [0x03#8, 0x02#8], _,
    loaded (pending .polyMod) 5 2 [0x12#8, 0x34#8, 0x56#8, 0x98#8, 0xE8#8] [0x03#8, 0x02#8],
    [0x12#8, 0x34#8, 0x56#8], [0x03#8, 0x02#8], ⟨rfl, rfl, rfl⟩, ⟨by decide, by decide⟩, by decide, by decide, by decide,
    rfl, ⟨rfl, rfl, rfl⟩, rfl, rfl, ?_, ?_, ?_⟩
  · intro i (hi : i < 3); interval_cases i <;> rfl
  · intro j (hj : j < 2); interval_cases j <;> rfl
  · intro k h1 (h2 : k ≤ 2); interval_cases k <;> rfl
theorem witness_EncodingIsTheRemainderOfTheShiftedData :
    ∃ (s t u v : State) (b g : List Byte), Pending .rsEncode s ∧ GoodElen s ∧ s.dlen.toNat + s.elen.toNat ≤ 256 ∧
      s.mem.readBytes 0x400 s.dlen.toNat = some b ∧ s.mem.readBytes 0x804 s.elen.toNat = some g ∧
      Pending .polyMod u ∧ u.elen = s.elen ∧ u.dlen.toNat = s.dlen.toNat + s.elen.toNat ∧
      u.mem.readBytes 0x400 u.dlen.toNat = some (b ++ List.replicate s.elen.toNat 0x00#8) ∧
      u.mem.readBytes 0x804 u.elen.toNat = some g ∧
      exec .rsEncode s = .next t ∧ exec .polyMod u = .next v :=
  ⟨loaded (pending .rsEncode) 1 2 [0x01#8] [0x03#8, 0x02#8], _,
    loaded (pending .polyMod) 3 2 [0x01#8, 0x00#8, 0x00#8] [0x03#8, 0x02#8], _, [0x01#8], [0x03#8, 0x02#8],
    ⟨rfl, rfl, rfl⟩, ⟨by decide, by decide⟩, by decide, by decide, by decide, ⟨rfl, rfl, rfl⟩, rfl, rfl, by decide,
    by decide, rfl, rfl⟩
theorem witness_ProductIsDivisible :
    ∃ (s t u : State) (b g : List Byte), Pending .polyMul s ∧ GoodElen s ∧ s.dlen.toNat + s.elen.toNat ≤ 256 ∧
      s.mem.readBytes 0x400 s.dlen.toNat = some b ∧ s.mem.readBytes 0x804 s.elen.toNat = some g ∧
      exec .polyMul s = .next t ∧
      Pending .polyMod u ∧ u.elen = s.elen ∧ u.dlen.toNat = s.dlen.toNat + s.elen.toNat ∧ u.mem = t.mem :=
  ⟨loaded (pending .polyMul) 3 2 [0x12#8, 0x34#8, 0x56#8] [0x03#8, 0x02#8], _,
    { loaded (pending .polyMod) 5 2 [] [] with
      mem := (loaded (pending .polyMul) 3 2 [0x12#8, 0x34#8, 0x56#8] [0x03#8, 0x02#8]).mem.writeBytes 0x400
        (convolve [0x12#8, 0x34#8, 0x56#8] [0x01#8, 0x03#8, 0x02#8] 5) },
    [0x12#8, 0x34#8, 0x56#8], [0x03#8, 0x02#8], ⟨rfl, rfl, rfl⟩, ⟨by decide, by decide⟩, by decide, by decide, by decide,
    rfl, ⟨rfl, rfl, rfl⟩, rfl, rfl, rfl⟩
/-- The generator of degree 3 times 0x01, with two syndromes asked for. -/
theorem witness_MultipleOfGeneratorHasZeroSyndromes :
    ∃ (s : State) (q : List Byte) (e : Nat), Pending .syndrome s ∧ GoodElen s ∧ s.elen.toNat ≤ e ∧ e ≤ 30 ∧
      q.length + e = s.dlen.toNat ∧
      s.mem.readBytes 0x400 s.dlen.toNat = some (convolve q (genCoeffs e) (q.length + e)) := by
  obtain ⟨s, h1, h2, hd, he, h3, -⟩ := witness_operands .syndrome 4 2 (by omega) (by omega) (by omega)
    (convolve [0x01#8] (genCoeffs 3) 4) [1#8, 1#8] rfl rfl
  exact ⟨s, [0x01#8], 3, h1, h2, by omega, by omega, by simp [hd], h3⟩
/-- For every command, two pending states that agree on what R92 gives it and differ elsewhere: for GF_EXP, GF_LOG and GF_INV in
ARG_B, D, E and all RAM bytes, for GF_MUL in D, E and all RAM bytes, for GEN_POLY in ARG_A, D and GEN, unwritten in one of them, for
SYNDROME in ARG_A and GEN, for the others in ARG_A and RESULT. -/
theorem witness_CommandIsAFunctionOfItsOperands (i : Instr) :
    ∃ s s' t t' : State, s ≠ s' ∧ Pending i s ∧ Pending i s' ∧
      (i ∈ [Instr.gfMul, .gfExp, .gfLog, .gfInv] → s'.argA = s.argA) ∧
      (i = .gfMul → s'.argB = s.argB) ∧
      (i ∈ [Instr.gfLog, .gfInv] → s.argA ≠ 0x00#8) ∧
      (i ∈ [Instr.genPoly, .rsEncode, .polyMod, .polyMul, .syndrome] → s'.elen = s.elen) ∧
      (i ∈ [Instr.rsEncode, .polyMod, .polyMul, .syndrome] → s'.dlen = s.dlen ∧
        ∃ b : List Byte, s.mem.readBytes 0x400 s.dlen.toNat = some b ∧ s'.mem.readBytes 0x400 s.dlen.toNat = some b) ∧
      (i ∈ [Instr.rsEncode, .polyMod, .polyMul] →
        ∃ g : List Byte, s.mem.readBytes 0x804 s.elen.toNat = some g ∧ s'.mem.readBytes 0x804 s.elen.toNat = some g) ∧
      exec i s = .next t ∧ exec i s' = .next t' := by
  let s : State := { loaded (pending i) 1 1 [0x05#8] [0x01#8] with argA := 0x02#8, argB := 0x03#8 }
  let scalar : State := { pending i with argA := 0x02#8, argB := if i = .gfMul then 0x03#8 else 0xFF#8, fresh := 5 }
  let poly : State := { loaded (pending i) (if i = .genPoly then 0 else 1) 1 [0x05#8]
    (if i = .genPoly ∨ i = .syndrome then [] else [0x01#8]) with result := 0x07#8, fresh := 5 }
  let s' : State := if i ∈ [Instr.nop, .gfMul, .gfExp, .gfLog, .gfInv] then scalar else poly
  obtain ⟨t, ht⟩ := exec_next i s
  obtain ⟨t', ht'⟩ := exec_next i s'
  refine ⟨s, s', t, t', fun h => ?_, ⟨rfl, rfl, rfl⟩, ?_, ?_, ?_, fun _ => (by decide : (0x02#8 : Byte) ≠ 0x00#8), ?_, ?_, ?_,
    ht, ht'⟩
  · have : s.fresh = s'.fresh := by rw [← h]
    revert this
    cases i <;> exact fun h => absurd h (by decide)
  · cases i <;> exact ⟨rfl, rfl, rfl⟩
  · cases i <;> intro h <;> first | rfl | exact absurd h (by decide)
  · rintro rfl; rfl
  · cases i <;> intro h <;> first | rfl | exact absurd h (by decide)
  · cases i <;> intro h <;> first | exact absurd h (by decide) | exact ⟨rfl, [0x05#8], rfl, rfl⟩
  · cases i <;> intro h <;> first | exact absurd h (by decide) | exact ⟨[0x01#8], rfl, rfl⟩

/-! The field. -/

theorem witness_field_operands :
    (0x01#8 : Byte) ≠ 0x00#8 ∧ (0xFF#8 : Byte) ≠ 0x00#8 ∧ gfMul 0x00#8 0x00#8 = 0x00#8 ∧ gfMul 0x01#8 0x01#8 = 0x01#8 ∧
    expAt 0 = 0x01#8 ∧ logAt 0x01#8 = some 0#8 ∧ logAt 0x8E#8 = some 254#8 ∧ 0 < 255 ∧ 254 < 255 := by decide

/-! The registers and the port. -/

/-- A next transaction, of any kind, in an idle state. -/
theorem witness_next_idle (x : Transaction) :
    Next (.host x) (before State.reset [.host x]) ∧ (before State.reset [.host x]).status.busy = false ∧
      Idle (before State.reset [.host x]) := ⟨rfl, rfl, rfl, rfl⟩
/-- A next transaction, of any kind, in a busy state. -/
theorem witness_next_busy (x : Transaction) :
    Next (.host x) (before pendingMul [.host x]) ∧ (before pendingMul [.host x]).status.busy = true := ⟨rfl, rfl⟩
/-- IdRegister, CtrlRegister, StatusRegister, CmdReadsBack, OperandRegisters and GenZero ask for no more than these. -/
theorem witness_register_accesses :
    Next (.host (.write 0x004 4 0xFFFFFFFD#32)) (before State.reset [.host (.write 0x004 4 0xFFFFFFFD#32)]) ∧
    (0xFFFFFFFD#32).getLsbD 1 = false ∧ (0x00000002#32).getLsbD 1 = true := ⟨rfl, by decide, by decide⟩
theorem witness_RamBytesAreStoredAndReadBack :
    (∃ i, i < 256 ∧ 0x400 = 0x400 + 4 * i) ∧ (∃ i, i < 256 ∧ 0x7FC = 0x400 + 4 * i) ∧
    (∃ k, 1 ≤ k ∧ k ≤ 30 ∧ 0x804 = 0x800 + 4 * k) ∧ (∃ k, 1 ≤ k ∧ k ≤ 30 ∧ 0x878 = 0x800 + 4 * k) ∧
    (∃ j, j < 30 ∧ 0xC00 = 0xC00 + 4 * j) ∧ (∃ j, j < 30 ∧ 0xC74 = 0xC00 + 4 * j) ∧
    (∃ s : State, s.status.busy = false ∧ Next (.host (.read 0xC74 4)) s ∧ s.mem.read 0xC74 = some 0x9C#8) :=
  ⟨⟨0, by omega, rfl⟩, ⟨255, by omega, rfl⟩, ⟨1, by omega, by omega, rfl⟩, ⟨30, by omega, by omega, rfl⟩,
    ⟨0, by omega, rfl⟩, ⟨29, by omega, rfl⟩,
    ⟨{ State.reset with mem := [(0xC74, 0x9C#8)], inputs := [.host (.read 0xC74 4)] }, rfl, rfl, rfl⟩⟩
theorem witness_UnmappedAccessOnlySetsAccerr :
    UnmappedOff 0x024 ∧ UnmappedOff 0x3FC ∧ UnmappedOff 0x87C ∧ UnmappedOff 0xBFC ∧ UnmappedOff 0xC78 ∧
    UnmappedOff 0xFFC := by unfold UnmappedOff; decide
theorem witness_ReadOnlyWriteOnlySetsAccerr :
    ReadOnlyOff 0x000 ∧ ReadOnlyOff 0x018 ∧ ReadOnlyOff 0x800 ∧ ReadOnlyOff 0xC00 ∧ ReadOnlyOff 0xC74 ∧
    (before State.reset [.host (.write 0x008 4 0#32)]).status.accerr = false := by
  unfold ReadOnlyOff; decide
theorem witness_AccessWhileBusyFollowsItsRule :
    BlockedOff 0x010 ∧ BlockedOff 0x018 ∧ BlockedOff 0x020 ∧ BlockedOff 0x400 ∧ BlockedOff 0x7FC ∧ BlockedOff 0x800 ∧
    BlockedOff 0x878 ∧ BlockedOff 0xC00 ∧ BlockedOff 0xC74 ∧
    ¬BlockedOff 0x000 ∧ ¬BlockedOff 0x00C ∧ ¬BlockedOff 0x024 ∧ ¬UnmappedOff 0x878 ∧ ¬UnmappedOff 0xC74 := by
  unfold BlockedOff UnmappedOff; omega
theorem witness_OnlyWholeWordAccessesAreTransactions :
    (2 ≠ 4 ∨ 0x008 % 4 ≠ 0 ∨ 0x1000 ≤ 0x008) ∧ (4 ≠ 4 ∨ 0x00A % 4 ≠ 0 ∨ 0x1000 ≤ 0x00A) ∧
    (4 ≠ 4 ∨ 0x1000 % 4 ≠ 0 ∨ 0x1000 ≤ 0x1000) ∧ (0xFFC % 4 = 0 ∧ 0xFFC < 0x1000) := by decide
theorem witness_AccerrHasExactlyItsCauses :
    (∃ s t : State, step s = .next t ∧ Next (.host (.read 0x400 4)) s ∧ s.status.busy = true ∧ BlockedOff 0x400) ∧
    (∃ s t : State, step s = .next t ∧ Next (.host (.write 0x00C 4 1#32)) s ∧ s.status.busy = true) ∧
    (∃ s t : State, step s = .next t ∧ Next (.host (.write 0x008 4 8#32)) s ∧ s.status.accerr = true) ∧
    (∃ s t : State, step s = .next t ∧ EngineNext s) ∧ (∃ s t : State, step s = .next t ∧ Next .rst s) :=
  ⟨⟨before pendingMul [.host (.read 0x400 4)], _, rfl, rfl, rfl, by unfold BlockedOff; decide⟩,
    ⟨before pendingMul [.host (.write 0x00C 4 1#32)], _, rfl, rfl, rfl⟩,
    ⟨{ State.reset with
        status := { Status.clear with accerr := true }
        inputs := [.host (.write 0x008 4 8#32)] }, _, rfl, rfl, rfl⟩,
    ⟨State.reset, _, rfl, .inl rfl⟩, ⟨before State.reset [.rst], _, rfl, rfl⟩⟩
theorem witness_OtherReadsChangeNothing :
    (∃ s : State, Next (.host (.read 0x7FC 4)) s ∧ ¬UnmappedOff 0x7FC ∧
      ¬(s.status.busy = true ∧ BlockedOff 0x7FC)) ∧
    (∃ s : State, Next (.host (.read 0x00C 4)) s ∧ ¬UnmappedOff 0x00C ∧ s.status.busy = true ∧ ¬BlockedOff 0x00C) := by
  refine ⟨⟨before State.reset [.host (.read 0x7FC 4)], rfl, by unfold UnmappedOff; decide, fun h => ?_⟩,
    ⟨before pendingMul [.host (.read 0x00C 4)], rfl, by unfold UnmappedOff; decide, rfl, by unfold BlockedOff; decide⟩⟩
  cases h.1
theorem witness_AddressMapIsABijection :
    (0xFFC % 4 = 0 ∧ 0xFFC < 0x1000) ∧ Loc.wf (.buf 255) = true ∧ Loc.wf (.gen 30) = true ∧ Loc.wf (.rem 29) = true ∧
    Loc.wf (.unmapped 0xFFC) = true := by decide

/-! Interrupt, resets, invariants. -/

theorem witness_IrqFollowsItsCauses :
    ((14#32).getLsbD 1 = true ∧ (14#32).getLsbD 2 = true) ∧ (EngineNext (pending .nop) ∧ Pending .nop (pending .nop)) ∧
    (1#32).getLsbD 1 = false := ⟨by decide, ⟨.inl rfl, rfl, rfl, rfl⟩, by decide⟩
theorem witness_HardwareResetFollowsItsRule : Next .rst (before pendingMul [.rst]) := rfl
theorem witness_SoftResetFollowsItsRule :
    ∃ s : State, Next (.host (.write 0x004 4 3#32)) s ∧ (3#32).getLsbD 1 = true ∧ Pending .polyMul s ∧
      (destination .polyMul s).2 = 256 ∧ (1#32).getLsbD 1 = false :=
  ⟨before pendingMul [.host (.write 0x004 4 3#32)], rfl, by decide, ⟨rfl, rfl, rfl⟩, rfl, by decide⟩
theorem witness_BytesBecomeWrittenAndUnwrittenOnlyByRule :
    (∃ (s t : State), SoundState s ∧ step s = .next t ∧ s.mem.read 0x400 = none ∧ (t.mem.read 0x400).isSome = true) ∧
    (∃ (s t : State), SoundState s ∧ step s = .next t ∧ (s.mem.read 0x804).isSome = true ∧ t.mem.read 0x804 = none) :=
  ⟨⟨before State.reset [.host (.write 0x400 4 1#32)], _, reset_sound _, rfl,
      rfl, rfl⟩,
    ⟨{ pending .genPoly with elen := 1#5, mem := [(0x804, 1#8)], inputs := [.host (.write 0x004 4 2#32)] }, _,
      by constructor <;> decide, rfl, rfl, rfl⟩⟩
theorem witness_StepKeepsTheInvariant :
    (∃ t, SoundState (before pendingMul [.engine]) ∧ step (before pendingMul [.engine]) = .next t) ∧
    (∃ t, SoundState (before State.reset [.rst]) ∧ step (before State.reset [.rst]) = .next t) :=
  ⟨⟨_, pendingMul_sound _, rfl⟩, ⟨_, reset_sound _, rfl⟩⟩
theorem witness_NothingStopsTheBlock :
    ∃ s : State, SoundState s ∧ inputsWf s = true ∧
      s.inputs = [.host (.write 0xFFC 4 0#32), .host (.read 0x400 4), .engine, .rst] :=
  ⟨before pendingMul _, pendingMul_sound _, by decide, rfl⟩
theorem witness_PendingCommandCompletes :
    ∃ s : State, SoundState s ∧ s.pend.valid = true ∧ inputsWf s = true ∧ (∀ x ∈ s.inputs, inputResets x = false) ∧
      s.inputs = [.host (.read 0x008 4), .host (.write 0x004 4 1#32)] :=
  ⟨before pendingMul _, pendingMul_sound _, rfl, by decide, by decide, rfl⟩
theorem witness_CanonicalMemoriesWithEqualReadsAreEqual :
    Memory.wf [] ∧ Memory.wf [(0x400, 0x12#8), (0xC74, 0x00#8)] := by decide

/-! Host programs. -/

theorem witness_HostLinesAreBusOperations :
    (∃ (p : HostProgram) (h : HostCpu) (v : HostValue) (w : Word),
      p[h.line]? = some (none, .wr (.named .cmd) v) ∧ v.word h = some w) ∧
    (∃ (p : HostProgram) (h : HostCpu) (s t : State) (lab : Option String) (l : HostLoc) (x : String) (w : Word),
      p[h.line]? = some (lab, .rd l x) ∧
      step { s with inputs := .host (.read l.off 4) :: s.inputs } = .next t ∧ t.rdata = some w) ∧
    (∃ (p : HostProgram) (h : HostCpu), p[h.line]? = some (none, .halt)) :=
  ⟨⟨pseudoIssue .syndrome, { line := 0, vars := [], halted := false }, .command .syndrome, 9#32, rfl, rfl⟩,
    ⟨pseudoWait "w" "s", { line := 0, vars := [], halted := false }, pendingMul, _, some "w", .named .status, "s",
      0x00000001#32, rfl, rfl, by rfl⟩,
    ⟨[(none, .halt)], { line := 0, vars := [], halted := false }, rfl⟩⟩

end Sys2Proof.Tests
end

section
/-! ### The step, by its next input

Whatever the next input is, `step` is one call of the port, of the engine or of the hardware reset, in the state that has
taken the input. -/

namespace Sys2Proof.Proofs
open Sys2Proof Sys2Proof.Machine Sys2Proof.Claims

/-- The next input of every state is a read, a write, the engine's move or the hardware reset. -/
theorem nextInput_cases (s : State) :
    (∃ off n, Next (.host (.read off n)) s) ∨ (∃ off n v, Next (.host (.write off n v)) s) ∨ EngineNext s ∨
      Next .rst s := by
  unfold Next EngineNext
  match s.inputs with
  | [] => exact .inr (.inr (.inl (.inl rfl)))
  | .engine :: _ => exact .inr (.inr (.inl (.inr rfl)))
  | .rst :: _ => exact .inr (.inr (.inr rfl))
  | .host (.read off n) :: _ => exact .inl ⟨off, n, rfl⟩
  | .host (.write off n v) :: _ => exact .inr (.inl ⟨off, n, v, rfl⟩)

theorem inputs_of_next {x : Input} {s : State} (h : Next x s) : s.inputs = x :: s.inputs.tail :=
  (List.cons_head?_tail h).symm

theorem step_of_host {s : State} {x : Transaction} (h : Next (.host x) s) :
    step s = transact exec x (takeInput s) := step_host (inputs_of_next h)

theorem step_of_read {s : State} {off : Nat} (h : Next (.host (.read off 4)) s) (hw : accessWf off 4 = true) :
    step s = .next (hostRead (locOf off) (takeInput s)) := by
  rw [step_of_host h, transact_read hw]

theorem step_of_write {s : State} {off : Nat} {v : Word} (h : Next (.host (.write off 4 v)) s)
    (hw : accessWf off 4 = true) : step s = hostWrite exec (locOf off) v (takeInput s) := by
  rw [step_of_host h, transact_write hw]

theorem step_of_rst {s : State} (h : Next .rst s) : step s = .next (hardReset (takeInput s)) :=
  step_rst (inputs_of_next h)

theorem step_of_engineNext {s : State} (h : EngineNext s) : step s = engineStep exec (takeInput s) :=
  step_engine (h.imp_right fun h => ⟨_, inputs_of_next h⟩)

/-- A step over a transaction that answers a next state has served a transaction that the port can express. -/
theorem wf_of_step_host {s t : State} {x : Transaction} (h : Next (.host x) s) (hs : step s = .next t) :
    x.wf = true := by
  rw [step_of_host h] at hs
  rcases transact_cases x (takeInput s) with ⟨hw, -⟩ | ⟨-, hr⟩
  · exact hw
  · rw [hr] at hs; cases hs

/-- The accesses of the port are to word offsets of the window, four bytes wide (20_memory.md R61). -/
theorem accessWf_iff {off n : Nat} : accessWf off n = true ↔ n = 4 ∧ off % 4 = 0 ∧ off < 0x1000 := by
  simp only [accessWf, Bool.and_eq_true, beq_iff_eq, decide_eq_true_eq, and_assoc]
  rfl

/-- What a step over a read has done. -/
theorem read_of_step {s t : State} {off n : Nat} (h : Next (.host (.read off n)) s) (hs : step s = .next t) :
    n = 4 ∧ accessWf off 4 = true ∧ t = hostRead (locOf off) (takeInput s) := by
  have hw : accessWf off n = true := wf_of_step_host h hs
  obtain ⟨rfl, -⟩ := accessWf_iff.1 hw
  rw [step_of_read h hw] at hs
  exact ⟨rfl, hw, (Host.Outcome.next.inj hs).symm⟩

/-- What a step over a write has done. -/
theorem write_of_step {s t : State} {off n : Nat} {v : Word} (h : Next (.host (.write off n v)) s)
    (hs : step s = .next t) :
    n = 4 ∧ accessWf off 4 = true ∧ hostWrite exec (locOf off) v (takeInput s) = .next t := by
  have hw : accessWf off n = true := wf_of_step_host h hs
  obtain ⟨rfl, -⟩ := accessWf_iff.1 hw
  exact ⟨rfl, hw, step_of_write h hw ▸ hs⟩

/-- What a step over the hardware reset has done. -/
theorem rst_of_step {s t : State} (h : Next .rst s) (hs : step s = .next t) : t = hardReset (takeInput s) := by
  rw [step_of_rst h] at hs
  exact (Host.Outcome.next.inj hs).symm

/-- What a step of the engine has done: nothing with the engine free, else the pending command's completion. -/
theorem engine_of_step {s t : State} (h : EngineNext s) (hs : step s = .next t) :
    (s.pend.valid = false ∧ t = takeInput s) ∨
    (s.pend.valid = true ∧ ∃ i, s.pend.op = opcode i ∧ t = finish (effectOf i (takeInput s))) := by
  rw [step_of_engineNext h] at hs
  cases hv : s.pend.valid with
  | false =>
    rw [engineStep_free (by simpa using hv)] at hs
    exact .inl ⟨rfl, (Host.Outcome.next.inj hs).symm⟩
  | true =>
    refine .inr ⟨rfl, ?_⟩
    simp only [engineStep, takeInput_pend, hv, if_true] at hs
    split at hs
    · next i hi =>
      rw [exec_pending i (by simpa using hv)] at hs
      exact ⟨i, opcode_of_decodeOp hi, (Host.Outcome.next.inj hs).symm⟩
    · cases hs

/-! ### The port's two accesses -/

theorem hostRead_of_not_blocked {l : Loc} {s : State} (h : blocked l = false) : hostRead l s = readLoc l s := by
  simp [hostRead, h]

theorem hostRead_of_not_busy {l : Loc} {s : State} (h : s.status.busy = false) : hostRead l s = readLoc l s := by
  simp [hostRead, h]

theorem hostWrite_of_not_blocked {l : Loc} {v : Word} {s : State} (hl : l ≠ .cmd) (h : blocked l = false) :
    hostWrite exec l v s = .next (writeLoc l v s) := by
  simp [hostWrite, hl, h]

theorem hostWrite_of_not_busy {l : Loc} {v : Word} {s : State} (hl : l ≠ .cmd) (h : s.status.busy = false) :
    hostWrite exec l v s = .next (writeLoc l v s) := by
  simp [hostWrite, hl, h]

theorem hostWrite_of_blocked {l : Loc} {v : Word} {s : State} (h : s.status.busy = true)
    (hl : l = .cmd ∨ blocked l = true) : hostWrite exec l v s = .next (accessError s) := by
  rcases hl with rfl | hl
  · simp [hostWrite, writeCmd, h]
  · have : l ≠ .cmd := by rintro rfl; cases hl
    simp [hostWrite, this, h, hl]

/-- What a host write can do: be blocked, be the issue of a word that is no command or of a command, or write its
location. -/
theorem hostWrite_cases {l : Loc} {v : Word} {s t : State} (h : hostWrite exec l v s = .next t) :
    (s.status.busy = true ∧ (l = .cmd ∨ blocked l = true) ∧ t = accessError s) ∨
    (s.status.busy = false ∧ l = .cmd ∧ (∃ why, decode v = .illegal why) ∧ t = issueIllegal v s) ∨
    (s.status.busy = false ∧ l = .cmd ∧ ∃ i, decode v = .cmd i ∧ exec i s = .next t) ∨
    (l ≠ .cmd ∧ (blocked l = true → s.status.busy = false) ∧ t = writeLoc l v s) := by
  by_cases hb : s.status.busy = true ∧ (l = .cmd ∨ blocked l = true)
  · obtain ⟨hb, hl⟩ := hb
    rw [hostWrite_of_blocked hb hl] at h
    exact .inl ⟨hb, hl, (Host.Outcome.next.inj h).symm⟩
  by_cases hl : l = .cmd
  · have hbusy : s.status.busy = false := by simpa [hl] using hb
    refine .inr ?_
    simp only [hostWrite, hl, if_true, writeCmd, hbusy, Bool.false_eq_true, if_false] at h
    split at h
    · next why hd => exact .inl ⟨hbusy, hl, ⟨why, hd⟩, (Host.Outcome.next.inj h).symm⟩
    · next i hd => exact .inr (.inl ⟨hbusy, hl, i, hd, h⟩)
  · have hw : blocked l = true → s.status.busy = false := fun hbl => by simpa [hbl] using hb
    have heq : hostWrite exec l v s = .next (writeLoc l v s) := by
      cases hbl : blocked l
      · exact hostWrite_of_not_blocked hl hbl
      · exact hostWrite_of_not_busy hl (hw hbl)
    exact .inr (.inr (.inr ⟨hl, hw, (Host.Outcome.next.inj (heq ▸ h)).symm⟩))

/-- A read changes nothing but the read data, ACCERR and the counter of free values. -/
theorem hostRead_frame (l : Loc) (s : State) :
    ∃ r n e, hostRead l s = { s with rdata := r, fresh := n, status := { s.status with accerr := e } } := by
  have hshow : ∀ r : Option Byte, ∃ d n e,
      showByte r s = { s with rdata := d, fresh := n, status := { s.status with accerr := e } } := by
    rintro (_ | b) <;> exact ⟨_, _, _, rfl⟩
  unfold hostRead
  split
  · exact ⟨_, _, _, rfl⟩
  · cases l with
    | buf i => exact hshow _
    | rem j => exact hshow _
    | gen k =>
      simp only [readLoc]
      split
      · exact ⟨_, _, _, rfl⟩
      · exact hshow _
    | _ => exact ⟨_, _, _, rfl⟩

/-- The only command word that decodes to a command is its encoding. -/
theorem encode_of_decode {cw : Word} {i : Instr} (h : decode cw = .cmd i) : encode i = cw := by
  obtain ⟨hr, ho⟩ := fields_of_decode h
  apply BitVec.eq_of_toNat_eq
  rw [word_of_fields cw, word_of_fields (encode i), rsvField_encode, opField_encode, hr, opcode_of_decodeOp ho]

@[simp] theorem decode_encode (i : Instr) : decode (encode i) = .cmd i := by simp [decode]

/-- An offset of the window is the offset of the location it names, which exists (20_memory.md R62). -/
theorem offsetOf_locOf {off : Nat} (h : accessWf off 4 = true) : offsetOf (locOf off) = off ∧ (locOf off).wf = true := by
  obtain ⟨-, h4, hlt⟩ := accessWf_iff.1 h
  rcases offset_cases h4 hlt with h | ⟨i, hi, rfl⟩ | ⟨k, hk, rfl⟩ | ⟨j, hj, rfl⟩ | h
  · exact (by decide : ∀ o ∈ [0x000, 0x004, 0x008, 0x00C, 0x010, 0x014, 0x018, 0x01C, 0x020],
      offsetOf (locOf o) = o ∧ (locOf o).wf = true) off h
  · rw [locOf_bufAddr hi]; exact ⟨rfl, decide_eq_true hi⟩
  · rw [locOf_genAddr hk]; exact ⟨rfl, decide_eq_true hk⟩
  · rw [locOf_remAddr hj]; exact ⟨rfl, decide_eq_true hj⟩
  · rw [locOf_unmapped h]; exact ⟨rfl, h⟩

end Sys2Proof.Proofs
end

section
/-! ### The invariant, one operation at a time -/

namespace Sys2Proof.Proofs
open Sys2Proof Sys2Proof.Machine Sys2Proof.Claims

theorem opcode_inj {i j : Instr} (h : opcode i = opcode j) : i = j :=
  Option.some.inj (by rw [← decodeOp_opcode i, ← decodeOp_opcode j, h])

/-- The issue checks read ARG_A, D and E only. -/
theorem check_congr {s t : State} (i : Instr) (ha : t.argA = s.argA) (hd : t.dlen = s.dlen) (he : t.elen = s.elen) :
    check i t = check i s := by
  cases i <;> simp [check, ha, hd, he]

/-- An error has one of the codes 1 to 5 (60_exceptions.md R181). -/
theorem code_of_ne_none {e : ErrCode} (h : e ≠ .none) : e.code ≠ 0#4 ∧ e.code.toNat ≤ 5 := by
  revert h
  cases e <;> decide

/-- Under the invariant a free engine has nothing pending. -/
theorem pend_of_not_busy {s : State} (hi : SoundState s) (hb : s.status.busy = false) : s.pend.valid = false := by
  rw [← hi.busyPend, hb]

/-- Under the invariant a pending command is `Pending` and has passed its checks. -/
theorem pending_of_valid {s : State} (hi : SoundState s) (hv : s.pend.valid = true) :
    ∃ i, Pending i s ∧ check i s = .none := by
  obtain ⟨i, hop, hc, -⟩ := pendLegal_cases (hi.pendOk hv)
  exact ⟨i, ⟨hi.busyPend.trans hv, hv, hop⟩, hc⟩

theorem sound_takeInput {s : State} (hi : SoundState s) : SoundState (takeInput s) :=
  hi.of_same rfl rfl rfl rfl rfl rfl rfl rfl rfl rfl

theorem sound_accessError {s : State} (hi : SoundState s) : SoundState (accessError s) :=
  hi.of_same rfl rfl rfl rfl rfl rfl rfl rfl rfl rfl

theorem sound_hostRead {s : State} (hi : SoundState s) (l : Loc) : SoundState (hostRead l s) := by
  obtain ⟨r, n, e, h⟩ := hostRead_frame l s
  rw [h]
  exact hi.of_same rfl rfl rfl rfl rfl rfl rfl rfl rfl rfl

/-- A state after a reset of the registers is sound if its memory is. -/
theorem sound_of_clear {s : State} (hw : s.mem.wf) (hr : ∀ c ∈ s.mem, isRamOffset c.1 = true)
    (hst : s.status = Status.clear) (hp : s.pend.valid = false) : SoundState s where
  memWf := hw
  memRam := hr
  busyPend := by rw [hst, hp]; rfl
  busyClear := by simp [hst, Status.clear]
  doneErr := by simp [hst, Status.clear]
  errCode := by simp [hst, Status.clear]
  codeRange := by simp [hst, Status.clear]
  pendOk := by simp [hp]

theorem sound_hardReset (s : State) : SoundState (hardReset s) :=
  sound_of_clear (by simp [Memory.wf]) (by simp) rfl rfl

theorem wf_abandonPending {s : State} (h : s.mem.wf) : (abandonPending s).mem.wf := by
  unfold abandonPending
  split
  · split
    · exact Memory.wf_eraseBytes h _ _
    · exact h
  · exact h

theorem sound_softReset {s : State} (hi : SoundState s) : SoundState (softReset s) :=
  sound_of_clear (wf_abandonPending hi.memWf) (fun c hc => hi.memRam c (softReset_mem_subset s c hc)) rfl rfl

/-- Write-one-to-clear keeps the invariant: ECODE is cleared with ERR (10_state.md R23, R26). -/
theorem sound_clearBits {s : State} (hi : SoundState s) (v : Word) :
    SoundState { s with status := s.status.clearBits v } where
  memWf := hi.memWf
  memRam := hi.memRam
  busyPend := hi.busyPend
  busyClear := fun hb => by
    obtain ⟨hd, he⟩ := hi.busyClear hb
    simp [Status.clearBits, hd, he]
  doneErr := by
    rintro ⟨hd, he⟩
    exact hi.doneErr ⟨(Bool.and_eq_true_iff.1 hd).1, (Bool.and_eq_true_iff.1 he).1⟩
  errCode := by
    simp only [Status.clearBits]
    cases v.getLsbD 2
    · simpa using hi.errCode
    · simp
  codeRange := by
    simp only [Status.clearBits]
    cases v.getLsbD 2
    · exact hi.codeRange
    · simp
  pendOk := hi.pendOk

/-- A rejection while idle keeps the invariant. -/
theorem sound_raiseError {s : State} (hi : SoundState s) (hb : s.status.busy = false) (cw : Word) {e : ErrCode}
    (he : e ≠ .none) : SoundState (raiseError e (beginIssue cw s)) where
  memWf := hi.memWf
  memRam := hi.memRam
  busyPend := hi.busyPend
  busyClear := by simp [hb]
  doneErr := by simp
  errCode := by simp [(code_of_ne_none he).1]
  codeRange := (code_of_ne_none he).2
  pendOk := by simp [pend_of_not_busy hi hb]

/-- The acceptance of a command that passed its checks keeps the invariant. -/
theorem sound_accept {s : State} (hi : SoundState s) {i : Instr} (hc : check i s = .none) :
    SoundState (accept i (beginIssue (encode i) s)) where
  memWf := hi.memWf
  memRam := hi.memRam
  busyPend := rfl
  busyClear := by simp
  doneErr := by simp
  errCode := by simp
  codeRange := by simp
  pendOk := fun _ => by
    have : check i (accept i (beginIssue (encode i) s)) = .none := (check_congr i rfl rfl rfl).trans hc
    simp [pendLegal, this]

theorem sound_issue {s : State} (hi : SoundState s) (hb : s.status.busy = false) (i : Instr) :
    SoundState (issue i s) := by
  rcases issue_cases i s with ⟨hc, h⟩ | ⟨hc, h⟩ <;> rw [h]
  · exact sound_accept hi hc
  · exact sound_raiseError hi hb _ hc

/-- The completion of a command that passed its checks keeps the invariant: its destination lies in the RAMs. -/
theorem sound_finish {s : State} (hi : SoundState s) {i : Instr} (hb : s.status.busy = true)
    (hc : check i s = .none) : SoundState (finish (effectOf i s)) := by
  obtain ⟨-, hst, -⟩ := effectOf_frame i s
  obtain ⟨bs, hlen, hmem⟩ := effectOf_writes i s
  obtain ⟨-, herr⟩ := hi.busyClear hb
  have hcode : s.status.ecode = 0#4 := by simpa [herr] using hi.errCode
  refine
    { memWf := ?_, memRam := ?_, busyPend := rfl, busyClear := by simp, doneErr := ?_, errCode := ?_, codeRange := ?_,
      pendOk := by simp }
  · rw [finish_mem, hmem]
    exact Memory.wf_writeBytes hi.memWf _ _
  · intro c h
    rw [finish_mem, hmem] at h
    rcases Memory.mem_writeBytes h with h | ⟨k, hk, ha⟩
    · exact hi.memRam c h
    · rw [ha]
      exact destination_isRam hc (hlen ▸ hk)
  · simp [hst, herr]
  · simp [hst, herr, hcode]
  · simp [hst, hcode]

/-- A write to a location that exists and is not blocked keeps the invariant. -/
theorem sound_writeLoc {s : State} (hi : SoundState s) {l : Loc} (hl : l.wf = true)
    (hb : blocked l = true → s.status.busy = false) (v : Word) : SoundState (writeLoc l v s) := by
  have operands {t : State} (hbl : blocked l = true) (hp : t.pend = s.pend) (hst : t.status = s.status)
      (hm : t.mem = s.mem) : SoundState t :=
    hi.of_operands (hb hbl) hp hst (hm ▸ hi.memWf) (hm ▸ hi.memRam)
  have byte {a : Nat} (hbl : blocked l = true) (ha : isRamOffset a = true) (b : Byte) :
      SoundState { s with mem := s.mem.write a b } :=
    hi.of_operands (hb hbl) rfl rfl (Memory.wf_write hi.memWf a b) (memRam_write hi.memRam ha b)
  cases l with
  | ctrl =>
    simp only [writeLoc, writeCtrl]
    split
    · exact sound_softReset hi
    · exact hi.of_same rfl rfl rfl rfl rfl rfl rfl rfl rfl rfl
  | status => exact sound_clearBits hi v
  | cmd => exact hi
  | argA | argB | dlen | elen => exact operands rfl rfl rfl rfl
  | buf i => exact byte rfl (isRamOffset_bufAddr (of_decide_eq_true hl)) _
  | gen k =>
    simp only [writeLoc]
    split
    · exact sound_accessError hi
    · next hk => exact byte rfl (isRamOffset_genAddr (Nat.pos_of_ne_zero hk) (of_decide_eq_true hl)) _
  | id | result | rem _ | unmapped _ => exact sound_accessError hi

theorem sound_hostWrite {s t : State} (hi : SoundState s) {l : Loc} (hl : l.wf = true) {v : Word}
    (h : hostWrite exec l v s = .next t) : SoundState t := by
  rcases hostWrite_cases h with ⟨-, -, rfl⟩ | ⟨hb, -, -, rfl⟩ | ⟨hb, -, i, -, he⟩ | ⟨-, hb, rfl⟩
  · exact sound_accessError hi
  · exact sound_raiseError hi hb v (by decide)
  · rw [exec_idle i (pend_of_not_busy hi hb)] at he
    exact Host.Outcome.next.inj he ▸ sound_issue hi hb i
  · exact sound_writeLoc hi hl hb v

/-- Settles O56: whatever the next input is, its operation keeps the invariant. -/
theorem stepKeepsTheInvariant : Obligations.StepKeepsTheInvariant := by
  intro s t hs h
  have hi := sound_takeInput hs
  rcases nextInput_cases s with ⟨off, n, hx⟩ | ⟨off, n, v, hx⟩ | hx | hx
  · obtain ⟨-, -, rfl⟩ := read_of_step hx h
    exact sound_hostRead hi _
  · obtain ⟨-, hw, h⟩ := write_of_step hx h
    exact sound_hostWrite hi (offsetOf_locOf hw).2 h
  · rcases engine_of_step hx h with ⟨-, rfl⟩ | ⟨hv, i, hop, rfl⟩
    · exact hi
    · obtain ⟨j, ⟨hbusy, -, hj⟩, hc⟩ := pending_of_valid hi hv
      obtain rfl : j = i := opcode_inj (hj.symm.trans hop)
      exact sound_finish hi hbusy hc
  · rw [rst_of_step hx h]
    exact sound_hardReset _

/-- Settles O55: the reset state is its own hardware reset. -/
theorem resetStateHasTheInvariant : Obligations.ResetStateHasTheInvariant := sound_hardReset State.reset

end Sys2Proof.Proofs
end

section
/-! ### The registers, as the port reads and writes them -/

namespace Sys2Proof.Proofs
open Sys2Proof Sys2Proof.Machine Sys2Proof.Claims

/-- A read of a location that is never blocked. -/
theorem step_of_read_open {s : State} {off : Nat} (h : Next (.host (.read off 4)) s) (hw : accessWf off 4 = true)
    (hl : blocked (locOf off) = false) : step s = .next (readLoc (locOf off) (takeInput s)) := by
  rw [step_of_read h hw, hostRead_of_not_blocked hl]

/-- A read with the engine free. -/
theorem step_of_read_idle {s : State} {off : Nat} (h : Next (.host (.read off 4)) s) (hw : accessWf off 4 = true)
    (hb : s.status.busy = false) : step s = .next (readLoc (locOf off) (takeInput s)) := by
  rw [step_of_read h hw, hostRead_of_not_busy (by simpa using hb)]

/-- A write to a location that is never blocked. -/
theorem step_of_write_open {s : State} {off : Nat} {v : Word} (h : Next (.host (.write off 4 v)) s)
    (hw : accessWf off 4 = true) (hc : locOf off ≠ .cmd) (hl : blocked (locOf off) = false) :
    step s = .next (writeLoc (locOf off) v (takeInput s)) := by
  rw [step_of_write h hw, hostWrite_of_not_blocked hc hl]

/-- A write with the engine free. -/
theorem step_of_write_idle {s : State} {off : Nat} {v : Word} (h : Next (.host (.write off 4 v)) s)
    (hw : accessWf off 4 = true) (hc : locOf off ≠ .cmd) (hb : s.status.busy = false) :
    step s = .next (writeLoc (locOf off) v (takeInput s)) := by
  rw [step_of_write h hw, hostWrite_of_not_busy hc (by simpa using hb)]

/-- A CMD write is the issue of its word (60_exceptions.md R182). -/
theorem step_of_cmdWrite {s : State} {cw : Word} (h : Next (.host (.write 0x00C 4 cw)) s) :
    step s = writeCmd exec cw (takeInput s) := by
  rw [step_of_write h (by decide)]
  rfl

/-- An issue leaves its word in CMD_LAST, accepted or not (10_state.md R28). -/
theorem issue_cmdLast (i : Instr) (s : State) : (issue i s).cmdLast = encode i := by
  rcases issue_cases i s with ⟨-, h⟩ | ⟨-, h⟩ <;> rw [h] <;> rfl

/-- An issue leaves ACCERR, the operand registers and the RAMs. -/
theorem issue_frame (i : Instr) (s : State) :
    (issue i s).status.accerr = s.status.accerr ∧ (issue i s).argA = s.argA ∧ (issue i s).argB = s.argB ∧
    (issue i s).dlen = s.dlen ∧ (issue i s).elen = s.elen ∧ (issue i s).mem = s.mem := by
  rcases issue_cases i s with ⟨-, h⟩ | ⟨-, h⟩ <;> rw [h] <;> exact ⟨rfl, rfl, rfl, rfl, rfl, rfl⟩

/-- A step of a command, its issue or its completion, leaves ACCERR and the operand registers. -/
theorem exec_frame {i : Instr} {s t : State} (h : exec i s = .next t) :
    t.status.accerr = s.status.accerr ∧ t.argA = s.argA ∧ t.argB = s.argB ∧ t.dlen = s.dlen ∧ t.elen = s.elen := by
  cases hv : s.pend.valid with
  | false =>
    rw [exec_idle i hv] at h
    obtain ⟨hacc, ha, hb, hd, he, -⟩ := issue_frame i s
    exact Host.Outcome.next.inj h ▸ ⟨hacc, ha, hb, hd, he⟩
  | true =>
    rw [exec_pending i hv] at h
    obtain ⟨-, hst, -, ha, hb, hd, he, -⟩ := effectOf_frame i s
    exact Host.Outcome.next.inj h ▸ ⟨(congrArg Status.accerr hst :), ha, hb, hd, he⟩

/-- STATUS as a number: BUSY, DONE, ERR and ACCERR in bits 0 to 3, ECODE from bit 8 on. -/
theorem statusWord_toNat (t : Status) :
    t.word.toNat = t.busy.toNat + 2 * t.done.toNat + 4 * t.err.toNat + 8 * t.accerr.toNat + 256 * t.ecode.toNat := by
  have table : ∀ (busy done err accerr : Bool) (ecode : BitVec 4),
      (Status.word ⟨busy, done, err, accerr, ecode⟩).toNat =
        busy.toNat + 2 * done.toNat + 4 * err.toNat + 8 * accerr.toNat + 256 * ecode.toNat := by
    decide
  exact table t.busy t.done t.err t.accerr t.ecode

theorem ctrlWord_eq (ie : Bool) : ctrlWord ie = if ie then 1#32 else 0#32 := by cases ie <;> rfl

/-- Write-one-to-clear, bit by bit. -/
theorem clearBits_eq (v : Word) (t : Status) :
    t.clearBits v =
      { busy := t.busy
        done := if v.getLsbD 1 then false else t.done
        err := if v.getLsbD 2 then false else t.err
        accerr := if v.getLsbD 3 then false else t.accerr
        ecode := if v.getLsbD 2 then 0#4 else t.ecode } := by
  simp only [Status.clearBits]
  cases v.getLsbD 1 <;> cases v.getLsbD 2 <;> cases v.getLsbD 3 <;> simp

/-- A field takes the low bits of the written word. -/
theorem ofNat_mod_eq_setWidth (n : Nat) (v : Word) : BitVec.ofNat n (v.toNat % 2 ^ n) = v.setWidth n :=
  BitVec.eq_of_toNat_eq (by simp)

/-- Settles O36: ID is a constant that no write reaches. -/
theorem idRegisterFollowsItsRule : Obligations.IdRegisterFollowsItsRule :=
  ⟨fun _ h => step_of_read_open h (by decide) rfl, fun _ _ h => step_of_write_open h (by decide) (by decide) rfl⟩

/-- Settles O37: CTRL is never blocked, and a word with bit 1 clear misses the soft reset. -/
theorem ctrlRegisterReadsAndWritesIe : Obligations.CtrlRegisterReadsAndWritesIe := by
  refine ⟨fun s h => ?_, fun s v h hv => ?_⟩
  · rw [step_of_read_open h (by decide) rfl, ← ctrlWord_eq]
    rfl
  · have : writeCtrl v (takeInput s) = { takeInput s with ctrlIE := v.getLsbD 0 } := if_neg (by rw [hv]; decide)
    exact (step_of_write_open h (by decide) (by decide) rfl).trans (congrArg _ this)

/-- Settles O38: STATUS is never blocked; its word is read as a number, its write-one-to-clear bit by bit. -/
theorem statusRegisterFollowsItsRule : Obligations.StatusRegisterFollowsItsRule := by
  refine ⟨fun s h => ⟨s.status.word, step_of_read_open h (by decide) rfl, statusWord_toNat _⟩, fun s v h => ?_,
    by decide⟩
  rw [step_of_write_open h (by decide) (by decide) rfl, ← clearBits_eq]
  rfl

/-- Settles O39: a word that is no command is kept by its rejection, and a command's word is its encoding. -/
theorem cmdReadsBackTheLastIssuedWord : Obligations.CmdReadsBackTheLastIssuedWord := by
  refine ⟨fun s h => step_of_read_open h (by decide) rfl, fun s cw h hidle => ?_, fun s cw h hb => ?_, rfl⟩
  · obtain ⟨hb, hv⟩ := hidle
    rw [step_of_cmdWrite h, writeCmd, if_neg (by simp [hb])]
    split
    · exact ⟨_, rfl, rfl⟩
    · next i hd =>
      exact ⟨_, exec_idle i (by simpa using hv), (issue_cmdLast i _).trans (encode_of_decode hd)⟩
  · rw [step_of_cmdWrite h, writeCmd, if_pos (by simpa using hb)]
    exact ⟨_, rfl, rfl⟩

/-- Settles O40: with the engine free nothing is blocked, and `exec_frame` speaks for the commands. -/
theorem operandRegistersFollowTheirRules : Obligations.OperandRegistersFollowTheirRules := by
  refine ⟨fun s v hb => ?_, fun s hb => ?_, fun i s => ?_, rfl, rfl, rfl, rfl⟩
  · have h8 : BitVec.ofNat 8 (v.toNat % 256) = v.setWidth 8 := ofNat_mod_eq_setWidth 8 v
    have h9 : BitVec.ofNat 9 (v.toNat % 512) = v.setWidth 9 := ofNat_mod_eq_setWidth 9 v
    have h5 : BitVec.ofNat 5 (v.toNat % 32) = v.setWidth 5 := ofNat_mod_eq_setWidth 5 v
    rw [h8, h9, h5]
    exact ⟨fun h => step_of_write_idle h (by decide) (by decide) hb,
      fun h => step_of_write_idle h (by decide) (by decide) hb, fun h => step_of_write_idle h (by decide) (by decide) hb,
      fun h => step_of_write_idle h (by decide) (by decide) hb⟩
  · simp only [BitVec.ofNat_toNat]
    exact ⟨fun h => step_of_read_idle h (by decide) hb, fun h => step_of_read_idle h (by decide) hb,
      fun h => step_of_read_idle h (by decide) hb, fun h => step_of_read_idle h (by decide) hb⟩
  · obtain ⟨t, ht⟩ := exec_next i s
    exact ⟨t, ht, (exec_frame ht).2⟩

/-- Settles O42: a read needs a free engine; a write only sets ACCERR, blocked or served. -/
theorem genZeroIsHardwired : Obligations.GenZeroIsHardwired := by
  refine ⟨fun s hb h => step_of_read_idle h (by decide) hb, fun s v h => ?_⟩
  cases hb : s.status.busy
  · exact step_of_write_idle h (by decide) (by decide) hb
  · rw [step_of_write h (by decide), hostWrite_of_blocked (by simpa using hb) (.inr rfl)]
    rfl

/-- Settles O7: the placed CMD write meets a free engine, and its word decodes to the command. -/
theorem placedWordIsIssuedNext : Obligations.PlacedWordIsIssuedNext := by
  intro s i
  have hword : BitVec.ofNat 32 ((encode i).toNat % 2 ^ 32) = encode i := by
    rw [ofNat_mod_eq_setWidth, BitVec.setWidth_eq]
  have hnext : Next (.host (.write 0x00C 4 (encode i))) (presentCommand (encode i) s) := rfl
  rw [State.withFetchWord, hword, step_of_cmdWrite hnext, writeCmd, if_neg (by simp [presentCommand]), decode_encode]
  rfl

/-- Settles O53: every value is that of the record `State.reset`. -/
theorem resetStateHasTheRuleValues : Obligations.ResetStateHasTheRuleValues :=
  ⟨rfl, by decide, rfl, rfl, rfl, rfl, rfl, rfl, rfl, Memory.read_nil, rfl⟩

end Sys2Proof.Proofs
end

section
/-! ### ACCERR -/

namespace Sys2Proof.Proofs
open Sys2Proof Sys2Proof.Machine Sys2Proof.Claims

/-- The locations that no host write changes: the read-only ones of 20_memory.md R70. -/
def readOnly : Loc → Bool
  | .id | .result | .rem _ => true
  | .gen k => k == 0
  | .ctrl | .status | .cmd | .argA | .argB | .dlen | .elen | .buf _ | .unmapped _ => false

/-- The locations that stand for no register and no RAM byte (20_memory.md R65). -/
def unmapped : Loc → Bool
  | .unmapped _ => true
  | .id | .ctrl | .status | .cmd | .argA | .argB | .result | .dlen | .elen | .buf _ | .gen _ | .rem _ => false

/-- The three classes of offsets are classes of locations, and the offsets of the registers are theirs alone. -/
theorem offset_classes {l : Loc} (hl : l.wf = true) :
    (UnmappedOff (offsetOf l) ↔ unmapped l = true) ∧ (ReadOnlyOff (offsetOf l) ↔ readOnly l = true) ∧
    (BlockedOff (offsetOf l) ↔ blocked l = true) ∧ (offsetOf l = 0x00C ↔ l = .cmd) ∧
    (offsetOf l = 0x008 ↔ l = .status) ∧ (offsetOf l = 0x004 ↔ l = .ctrl) := by
  unfold UnmappedOff ReadOnlyOff BlockedOff
  cases l with
  | buf i =>
    have : i < 256 := of_decide_eq_true hl
    simp only [offsetOf, bufAddr, bufBase, unmapped, readOnly, blocked, reduceCtorEq, Bool.false_eq_true,
      iff_false, iff_true]
    omega
  | gen k =>
    have : k < 31 := of_decide_eq_true hl
    simp only [offsetOf, genAddr, genBase, unmapped, readOnly, blocked, reduceCtorEq, Bool.false_eq_true,
      iff_false, iff_true, beq_iff_eq]
    omega
  | rem j =>
    have : j < 30 := of_decide_eq_true hl
    simp only [offsetOf, remAddr, remBase, unmapped, readOnly, blocked, reduceCtorEq, Bool.false_eq_true,
      iff_false, iff_true]
    omega
  | unmapped off =>
    simp only [Loc.wf, accessWf, Bool.and_eq_true, Bool.or_eq_true, beq_iff_eq, decide_eq_true_eq] at hl
    simp only [offsetOf, unmapped, readOnly, blocked, reduceCtorEq, Bool.false_eq_true,
      iff_false, iff_true]
    omega
  | _ => decide

/-- A read sets ACCERR exactly at an unmapped or a blocked location. -/
theorem hostRead_accerr (l : Loc) (s : State) :
    (hostRead l s).status.accerr = (s.status.accerr || unmapped l || (s.status.busy && blocked l)) := by
  unfold hostRead
  split
  · next h => simp [h]
  · next h =>
    rw [Bool.eq_false_of_not_eq_true h]
    cases l with
    | gen k => simp only [readLoc]; split <;> simp [unmapped]
    | _ => simp [readLoc, unmapped]

/-- A write that is not blocked sets ACCERR exactly at a read-only or an unmapped location, and clears it by
write-one-to-clear or by a soft reset. -/
theorem writeLoc_accerr (l : Loc) (v : Word) (s : State) :
    (writeLoc l v s).status.accerr = true ↔
      unmapped l = true ∨ readOnly l = true ∨
        (s.status.accerr = true ∧ ¬(l = .status ∧ v.getLsbD 3 = true) ∧ ¬(l = .ctrl ∧ v.getLsbD 1 = true)) := by
  cases l with
  | ctrl =>
    simp only [writeLoc, writeCtrl]
    split <;> simp_all [unmapped, readOnly, Status.clear]
  | gen k => by_cases hk : k = 0 <;> simp [writeLoc, unmapped, readOnly, hk]
  | _ => simp [writeLoc, Status.clearBits, unmapped, readOnly]

/-- What a host write makes of ACCERR. -/
theorem hostWrite_accerr {l : Loc} {v : Word} {s t : State} (h : hostWrite exec l v s = .next t) :
    t.status.accerr = true ↔
      unmapped l = true ∨ readOnly l = true ∨ (s.status.busy = true ∧ (blocked l = true ∨ l = .cmd)) ∨
        (s.status.accerr = true ∧ ¬(l = .status ∧ v.getLsbD 3 = true) ∧ ¬(l = .ctrl ∧ v.getLsbD 1 = true)) := by
  rcases hostWrite_cases h with ⟨hb, hl, rfl⟩ | ⟨hb, rfl, -, rfl⟩ | ⟨hb, rfl, i, -, he⟩ | ⟨hl, hb, rfl⟩
  · simp [hb, hl.symm]
  · simp [issueIllegal, hb, unmapped, readOnly]
  · obtain ⟨hacc, -⟩ := exec_frame he
    simp [hacc, hb, unmapped, readOnly]
  · have hb' : ¬(s.status.busy = true ∧ (blocked l = true ∨ l = .cmd)) := by
      rintro ⟨hbusy, hbl | hc⟩
      · simp [hb hbl] at hbusy
      · exact hl hc
    simp only [writeLoc_accerr, hb', false_or]

/-- Settles O47: the causes of each kind of step, read through the classes of the location its offset names. -/
theorem accerrHasExactlyItsCauses : Obligations.AccerrHasExactlyItsCauses := by
  intro s t hs
  refine ⟨fun off h => ?_, fun off v h => ?_, fun h => ?_, fun h => ?_⟩
  · obtain ⟨-, hw, rfl⟩ := read_of_step h hs
    obtain ⟨hoff, hl⟩ := offsetOf_locOf hw
    obtain ⟨hun, -, hbl, -⟩ := hoff ▸ offset_classes hl
    simp [hostRead_accerr, hun, hbl, or_assoc]
  · obtain ⟨-, hw, h⟩ := write_of_step h hs
    obtain ⟨hoff, hl⟩ := offsetOf_locOf hw
    obtain ⟨hun, hro, hbl, hcmd, hstatus, hctrl⟩ := hoff ▸ offset_classes hl
    rw [hostWrite_accerr h, hun, hro, hbl, hcmd, hstatus, hctrl]
    rfl
  · rcases engine_of_step h hs with ⟨-, rfl⟩ | ⟨-, i, -, rfl⟩
    · rfl
    · obtain ⟨-, hst, -⟩ := effectOf_frame i (takeInput s)
      simp [hst]
  · rw [rst_of_step h hs]
    rfl

end Sys2Proof.Proofs
end

section
/-! ### Written and unwritten bytes -/

namespace Sys2Proof.Proofs
open Sys2Proof Sys2Proof.Machine Sys2Proof.Claims

/-- A port offset lies in the destination of a command. -/
def InDestination (i : Instr) (s : State) (a : Nat) : Prop :=
  ∃ k, k < (destination i s).2 ∧ a = (destination i s).1 + 4 * k

/-- A completion writes its command's destination and leaves every other byte. -/
theorem effectOf_read {i : Instr} {s : State} {a : Nat} :
    (InDestination i s a ∧ ((effectOf i s).mem.read a).isSome = true) ∨
    (¬InDestination i s a ∧ (effectOf i s).mem.read a = s.mem.read a) := by
  obtain ⟨bs, hlen, hmem⟩ := effectOf_writes i s
  rw [hmem]
  by_cases ha : InDestination i s a
  · obtain ⟨k, hk, rfl⟩ := id ha
    exact .inl ⟨ha, by rw [Memory.read_writeBytes_at (hlen ▸ hk)]; rfl⟩
  · exact .inr ⟨ha, Memory.read_writeBytes_other fun k hk e => ha ⟨k, hlen ▸ hk, e⟩⟩

/-- A soft reset makes a byte unwritten only in the destination of the pending command, and none written. -/
theorem softReset_read {s : State} {a : Nat} (hi : SoundState s) :
    (softReset s).mem.read a = s.mem.read a ∨
    ((softReset s).mem.read a = none ∧ ∃ i, Pending i s ∧ InDestination i s a) := by
  rw [softReset_mem]
  cases hv : s.pend.valid with
  | false => exact .inl (by simp [abandonPending, hv])
  | true =>
    obtain ⟨i, hp, -⟩ := pending_of_valid hi hv
    obtain ⟨-, -, hop⟩ := id hp
    have hab : abandonPending s = abandon i s := by simp [abandonPending, hv, hop]
    rw [hab, abandon_mem, Memory.read_eraseBytes]
    split
    · next ha => exact .inr ⟨rfl, i, hp, ha⟩
    · exact .inl rfl

/-- What a write that is not blocked makes of a byte: it is written at its own location only, and a soft reset may
take it. -/
theorem writeLoc_read {l : Loc} {v : Word} {s : State} {a : Nat} (hi : SoundState s)
    (hb : blocked l = true → s.status.busy = false) :
    (writeLoc l v s).mem.read a = s.mem.read a ∨
    (((writeLoc l v s).mem.read a).isSome = true ∧ a = offsetOf l ∧ s.status.busy = false) ∨
    ((writeLoc l v s).mem.read a = none ∧ l = .ctrl ∧ v.getLsbD 1 = true ∧ ∃ i, Pending i s ∧ InDestination i s a) := by
  have byte {c : Nat} (b : Byte) (hbusy : s.status.busy = false) :
      (s.mem.write c b).read a = s.mem.read a ∨
      (((s.mem.write c b).read a).isSome = true ∧ a = c ∧ s.status.busy = false) := by
    by_cases h : c = a
    · subst h
      exact .inr ⟨by simp, rfl, hbusy⟩
    · exact .inl (Memory.read_write_other _ _ h)
  cases l with
  | ctrl =>
    simp only [writeLoc, writeCtrl]
    split
    · next hv =>
      rcases softReset_read (a := a) hi with h | ⟨h, hd⟩
      · exact .inl h
      · exact .inr (.inr ⟨h, trivial, hv, hd⟩)
    · exact .inl rfl
  | buf i => exact (byte _ (hb rfl)).imp_right .inl
  | gen k =>
    simp only [writeLoc]
    split
    · exact .inl rfl
    · exact (byte _ (hb rfl)).imp_right .inl
  | _ => exact .inl rfl

/-- What a host write makes of a byte: only a write that is not blocked reaches the RAMs. -/
theorem hostWrite_read {l : Loc} {v : Word} {s t : State} {a : Nat} (hi : SoundState s)
    (h : hostWrite exec l v s = .next t) :
    t.mem.read a = s.mem.read a ∨ ((t.mem.read a).isSome = true ∧ a = offsetOf l ∧ s.status.busy = false) ∨
    (t.mem.read a = none ∧ l = .ctrl ∧ v.getLsbD 1 = true ∧ ∃ i, Pending i s ∧ InDestination i s a) := by
  rcases hostWrite_cases h with ⟨-, -, rfl⟩ | ⟨-, -, -, rfl⟩ | ⟨hb, -, i, -, he⟩ | ⟨-, hb, rfl⟩
  · exact .inl rfl
  · exact .inl rfl
  · rw [exec_idle i (pend_of_not_busy hi hb)] at he
    obtain ⟨-, -, -, -, -, hmem⟩ := issue_frame i s
    exact .inl (by rw [← Host.Outcome.next.inj he, hmem])
  · exact writeLoc_read hi hb

/-- What a step makes of a RAM byte: it leaves it, writes it, or makes it unwritten, each by its rule. -/
theorem step_read {s t : State} (a : Nat) (hi : SoundState s) (hs : step s = .next t) :
    t.mem.read a = s.mem.read a ∨
    ((t.mem.read a).isSome = true ∧
      ((∃ v, Next (.host (.write a 4 v)) s ∧ s.status.busy = false) ∨
        ∃ i, EngineNext s ∧ Pending i s ∧ InDestination i s a)) ∨
    (t.mem.read a = none ∧
      (Next .rst s ∨
        ∃ v i, Next (.host (.write 0x004 4 v)) s ∧ v.getLsbD 1 = true ∧ Pending i s ∧ InDestination i s a)) := by
  rcases nextInput_cases s with ⟨off, n, hx⟩ | ⟨off, n, v, hx⟩ | hx | hx
  · obtain ⟨-, -, rfl⟩ := read_of_step hx hs
    obtain ⟨r, m, e, h⟩ := hostRead_frame (locOf off) (takeInput s)
    exact .inl (by rw [h]; rfl)
  · obtain ⟨rfl, hw, h⟩ := write_of_step hx hs
    obtain ⟨hoff, -⟩ := offsetOf_locOf hw
    rcases hostWrite_read (a := a) (sound_takeInput hi) h with hm | ⟨hm, ha, hb⟩ | ⟨hm, hl, hv, i, hp, hd⟩
    · exact .inl hm
    · obtain rfl : a = off := ha.trans hoff
      exact .inr (.inl ⟨hm, .inl ⟨v, hx, hb⟩⟩)
    · obtain rfl : 0x004 = off := by rw [hl] at hoff; exact hoff
      exact .inr (.inr ⟨hm, .inr ⟨v, i, hx, hv, hp, hd⟩⟩)
  · rcases engine_of_step hx hs with ⟨-, rfl⟩ | ⟨hv, i, hop, rfl⟩
    · exact .inl rfl
    · rcases effectOf_read (i := i) (s := takeInput s) (a := a) with ⟨hd, h⟩ | ⟨-, h⟩
      · exact .inr (.inl ⟨h, .inr ⟨i, hx, ⟨hi.busyPend.trans hv, hv, hop⟩, hd⟩⟩)
      · exact .inl h
  · rw [rst_of_step hx hs]
    exact .inr (.inr ⟨rfl, .inl hx⟩)

/-- Settles O54: the two directions of `step_read`. -/
theorem bytesBecomeWrittenAndUnwrittenOnlyByRule : Obligations.BytesBecomeWrittenAndUnwrittenOnlyByRule := by
  intro s t a hi hs
  refine ⟨fun hwritten hnone => ?_, fun hnone hwritten => ?_⟩
  · rcases step_read a hi hs with h | ⟨h, -⟩ | ⟨-, hrst | ⟨v, i, hx, hv, hp, k, hk, ha⟩⟩
    · rw [← h, hnone] at hwritten; cases hwritten
    · rw [hnone] at h; cases h
    · exact .inl hrst
    · exact .inr ⟨v, i, k, hx, hv, hp, hk, ha⟩
  · rcases step_read a hi hs with h | ⟨-, hw | ⟨i, hx, hp, k, hk, ha⟩⟩ | ⟨h, -⟩
    · rw [h, hnone] at hwritten; cases hwritten
    · exact .inl hw
    · exact .inr ⟨i, k, hx, hp, hk, ha⟩
    · rw [h] at hwritten; cases hwritten

end Sys2Proof.Proofs
end

section
/-! ### Nothing stops the block

Only a call that spells no transaction is refused, every step takes one input, and every step keeps the invariant: so a
sound state with well-formed inputs runs on. -/

namespace Sys2Proof.Proofs
open Sys2Proof Sys2Proof.Machine Sys2Proof.Claims

/-- A transaction of the port is served. -/
theorem step_of_wf_host {s : State} {x : Transaction} (h : Next (.host x) s) (hw : x.wf = true) :
    ∃ t, step s = .next t := by
  rw [step_of_host h]
  rcases transact_cases x (takeInput s) with ⟨-, hnext⟩ | ⟨hn, -⟩
  · exact hnext
  · rw [hw] at hn; cases hn

/-- A call that spells no transaction is refused. -/
theorem step_of_not_wf_host {s : State} {x : Transaction} (h : Next (.host x) s) (hw : x.wf = false) :
    step s = .refused .noTransaction := by
  rw [step_of_host h]
  rcases transact_cases x (takeInput s) with ⟨hn, -⟩ | ⟨-, hrefused⟩
  · rw [hw] at hn; cases hn
  · exact hrefused

/-- A sound state's engine slot answers a next state: a pending opcode is a command's. -/
theorem step_of_sound_engine {s : State} (hi : SoundState s) (h : EngineNext s) : ∃ t, step s = .next t := by
  rw [step_of_engineNext h]
  cases hv : s.pend.valid with
  | false => exact ⟨_, engineStep_free hv⟩
  | true =>
    obtain ⟨i, ⟨-, -, hop⟩, -⟩ := pending_of_valid hi hv
    rw [engineStep_pending (s := takeInput s) hv hop]
    exact exec_next i _

theorem wf_of_next {s : State} {x : Input} (hw : inputsWf s = true) (h : Next x s) : x.wf = true :=
  List.all_eq_true.1 hw x (List.mem_of_mem_head? h)

/-- Progress: a sound state with well-formed inputs steps to a next state. -/
theorem step_of_sound {s : State} (hi : SoundState s) (hw : inputsWf s = true) : ∃ t, step s = .next t := by
  rcases nextInput_cases s with ⟨off, n, hx⟩ | ⟨off, n, v, hx⟩ | hx | hx
  · exact step_of_wf_host hx (wf_of_next hw hx)
  · exact step_of_wf_host hx (wf_of_next hw hx)
  · exact step_of_sound_engine hi hx
  · exact ⟨_, step_of_rst hx⟩

theorem issue_inputs (i : Instr) (s : State) : (issue i s).inputs = s.inputs := by
  rcases issue_cases i s with ⟨-, h⟩ | ⟨-, h⟩ <;> rw [h] <;> rfl

theorem finish_effectOf_inputs (i : Instr) (s : State) : (finish (effectOf i s)).inputs = s.inputs := by
  obtain ⟨-, -, -, -, -, -, -, -, -, h⟩ := effectOf_frame i s
  exact h

theorem exec_inputs {i : Instr} {s t : State} (h : exec i s = .next t) : t.inputs = s.inputs := by
  cases hv : s.pend.valid with
  | false =>
    rw [exec_idle i hv] at h
    exact Host.Outcome.next.inj h ▸ issue_inputs i s
  | true =>
    rw [exec_pending i hv] at h
    exact Host.Outcome.next.inj h ▸ finish_effectOf_inputs i s

theorem writeLoc_inputs (l : Loc) (v : Word) (s : State) : (writeLoc l v s).inputs = s.inputs := by
  cases l with
  | ctrl => simp only [writeLoc, writeCtrl]; split <;> simp
  | gen k => simp only [writeLoc]; split <;> rfl
  | _ => rfl

theorem hostWrite_inputs {l : Loc} {v : Word} {s t : State} (h : hostWrite exec l v s = .next t) :
    t.inputs = s.inputs := by
  rcases hostWrite_cases h with ⟨-, -, rfl⟩ | ⟨-, -, -, rfl⟩ | ⟨-, -, i, -, he⟩ | ⟨-, -, rfl⟩
  · rfl
  · rfl
  · exact exec_inputs he
  · exact writeLoc_inputs l v s

/-- Every step takes one input, the resets included (log 13). -/
theorem step_inputs {s t : State} (hs : step s = .next t) : t.inputs = s.inputs.tail := by
  rcases nextInput_cases s with ⟨off, n, hx⟩ | ⟨off, n, v, hx⟩ | hx | hx
  · obtain ⟨-, -, rfl⟩ := read_of_step hx hs
    obtain ⟨r, m, e, h⟩ := hostRead_frame (locOf off) (takeInput s)
    rw [h]
    rfl
  · obtain ⟨-, -, h⟩ := write_of_step hx hs
    exact hostWrite_inputs h
  · rcases engine_of_step hx hs with ⟨-, rfl⟩ | ⟨-, i, -, rfl⟩
    · rfl
    · exact finish_effectOf_inputs i (takeInput s)
  · rw [rst_of_step hx hs]
    rfl

theorem step_keeps_inputsWf {s t : State} (hw : inputsWf s = true) (hs : step s = .next t) : inputsWf t = true := by
  rw [inputsWf, step_inputs hs]
  exact List.all_eq_true.2 fun x hx => List.all_eq_true.1 hw x (List.mem_of_mem_tail hx)

/-- Settles O57, by induction on the number of steps: progress, and both premises kept. -/
theorem nothingStopsTheBlock : Obligations.NothingStopsTheBlock := by
  intro k
  induction k with
  | zero => exact fun s _ _ => ⟨s, rfl⟩
  | succ k ih =>
    intro s hi hw
    obtain ⟨t, hs⟩ := step_of_sound hi hw
    obtain ⟨u, hu⟩ := ih t (stepKeepsTheInvariant s t hi hs) (step_keeps_inputsWf hw hs)
    exact ⟨u, (run_succ hs).trans hu⟩

/-- Settles O46: the three conditions are those of `accessWf`. -/
theorem onlyWholeWordAccessesAreTransactions : Obligations.OnlyWholeWordAccessesAreTransactions := by
  intro s addr n v
  refine ⟨fun hbad => ?_, fun hn h4 hlt => ?_⟩
  · have hw : accessWf addr n = false := by
      rw [Bool.eq_false_iff, Ne, accessWf_iff]
      omega
    exact ⟨fun h => step_of_not_wf_host h hw, fun h => step_of_not_wf_host h hw⟩
  · have hw : accessWf addr n = true := accessWf_iff.2 ⟨hn, h4, hlt⟩
    exact ⟨fun h => step_of_wf_host h hw, fun h => step_of_wf_host h hw⟩

end Sys2Proof.Proofs
end

section
/-! ### The address map and its inverse -/

namespace Sys2Proof.Proofs
open Sys2Proof Sys2Proof.Machine Sys2Proof.Claims

/-- A location that exists is the one its offset names (20_memory.md R62). -/
theorem locOf_offsetOf {l : Loc} (hl : l.wf = true) : locOf (offsetOf l) = l := by
  cases l with
  | buf i => exact locOf_bufAddr (of_decide_eq_true hl)
  | gen k => exact locOf_genAddr (of_decide_eq_true hl)
  | rem j => exact locOf_remAddr (of_decide_eq_true hl)
  | unmapped off => exact locOf_unmapped hl
  | _ => rfl

/-- A RAM byte lies at a word offset of the window. -/
theorem accessWf_of_isRamOffset {off : Nat} (h : isRamOffset off = true) : accessWf off 4 = true := by
  obtain ⟨h4, hrange⟩ := (isRamOffset_iff off).1 h
  exact accessWf_iff.2 ⟨rfl, h4, by omega⟩

/-- The offset of a location that exists is a word offset of the window. -/
theorem accessWf_offsetOf {l : Loc} (hl : l.wf = true) : accessWf (offsetOf l) 4 = true := by
  cases l with
  | buf i => exact accessWf_of_isRamOffset (isRamOffset_bufAddr (of_decide_eq_true hl))
  | gen k =>
    by_cases hk : k = 0
    · subst hk; rfl
    · exact accessWf_of_isRamOffset (isRamOffset_genAddr (Nat.pos_of_ne_zero hk) (of_decide_eq_true hl))
  | rem j => exact accessWf_of_isRamOffset (isRamOffset_remAddr (of_decide_eq_true hl))
  | unmapped off => exact (Bool.and_eq_true_iff.1 hl).1
  | _ => rfl

/-- The window at BASE gives back the offset of each of its addresses (log 14). -/
theorem portOffset_hostAddress {off : Nat} (h : off < 0x1000) : portOffset (hostAddress off) = some off := by
  have hin : Config.base ≤ hostAddress off ∧ hostAddress off < Config.base + Config.windowSize :=
    ⟨Nat.le_add_right _ _, Nat.add_lt_add_left h _⟩
  rw [portOffset, if_pos hin, hostAddress, Nat.add_sub_cancel_left]

/-- Settles O49, from the two inverse laws and the window. -/
theorem addressMapIsABijection : Obligations.AddressMapIsABijection := by
  refine ⟨fun off h4 hlt => offsetOf_locOf (accessWf_iff.2 ⟨rfl, h4, hlt⟩), fun l hl => ?_,
    fun off h => portOffset_hostAddress h⟩
  obtain ⟨-, h4, hlt⟩ := accessWf_iff.1 (accessWf_offsetOf hl)
  exact ⟨locOf_offsetOf hl, h4, hlt⟩

end Sys2Proof.Proofs
end

section
/-! ### Unmapped, read-only and blocked accesses -/

namespace Sys2Proof.Proofs
open Sys2Proof Sys2Proof.Machine Sys2Proof.Claims

/-- An unmapped offset names its unmapped location. -/
theorem locOf_of_unmappedOff {off : Nat} (h : UnmappedOff off) :
    accessWf off 4 = true ∧ locOf off = .unmapped off := by
  obtain ⟨h4, hrange⟩ := h
  have hw : accessWf off 4 = true := accessWf_iff.2 ⟨rfl, h4, by omega⟩
  exact ⟨hw, locOf_unmapped (by simpa [Loc.wf, hw, or_assoc] using hrange)⟩

/-- Settles O43: an unmapped location is never blocked. -/
theorem unmappedAccessOnlySetsAccerr : Obligations.UnmappedAccessOnlySetsAccerr := by
  intro s off hoff
  obtain ⟨hw, hl⟩ := locOf_of_unmappedOff hoff
  refine ⟨fun h => ?_, fun v h => ?_⟩
  · rw [step_of_read_open h hw (by rw [hl]; rfl), hl]
    rfl
  · rw [step_of_write_open h hw (by simp [hl]) (by rw [hl]; rfl), hl]
    rfl

/-- A read-only offset names a read-only location. -/
theorem readOnly_of_readOnlyOff {off : Nat} (h : ReadOnlyOff off) :
    accessWf off 4 = true ∧ readOnly (locOf off) = true := by
  obtain ⟨h4, hrange⟩ := id h
  have hw : accessWf off 4 = true := accessWf_iff.2 ⟨rfl, h4, by omega⟩
  obtain ⟨hoff, hl⟩ := offsetOf_locOf hw
  obtain ⟨-, hro, -⟩ := hoff ▸ offset_classes hl
  exact ⟨hw, hro.1 h⟩

/-- A blocked offset names a blocked location. -/
theorem blocked_of_blockedOff {off : Nat} (h : BlockedOff off) :
    accessWf off 4 = true ∧ blocked (locOf off) = true := by
  obtain ⟨h4, hrange⟩ := id h
  have hw : accessWf off 4 = true := accessWf_iff.2 ⟨rfl, h4, by omega⟩
  obtain ⟨hoff, hl⟩ := offsetOf_locOf hw
  obtain ⟨-, -, hbl, -⟩ := hoff ▸ offset_classes hl
  exact ⟨hw, hbl.1 h⟩

/-- A write to a read-only location sets ACCERR and does nothing else, blocked or served (20_memory.md R70, R79). -/
theorem hostWrite_of_readOnly {l : Loc} (hl : readOnly l = true) (v : Word) (s : State) :
    hostWrite exec l v s = .next (accessError s) := by
  have hserved : writeLoc l v s = accessError s := by
    cases l with
    | gen k => exact if_pos (beq_iff_eq.1 hl)
    | id | result | rem _ => rfl
    | _ => cases hl
  have hcmd : l ≠ .cmd := by rintro rfl; cases hl
  simp [hostWrite, hcmd, hserved]

/-- Settles O44: a read-only location refuses the write in both ways, and write-one-to-clear sets nothing. -/
theorem readOnlyWriteOnlySetsAccerr : Obligations.ReadOnlyWriteOnlySetsAccerr := by
  obtain ⟨-, hstatus, -⟩ := statusRegisterFollowsItsRule
  refine ⟨fun s off v hoff h => ?_, fun s v h hacc => ⟨_, hstatus s v h, by simp [hacc]⟩⟩
  obtain ⟨hw, hl⟩ := readOnly_of_readOnlyOff hoff
  rw [step_of_write h hw, hostWrite_of_readOnly hl]
  rfl

theorem hostRead_of_blocked {l : Loc} {s : State} (h : s.status.busy = true) (hl : blocked l = true) :
    hostRead l s = accessError (answer 0#32 s) := by
  simp [hostRead, h, hl]

/-- A blocked read (20_memory.md R79). -/
theorem step_of_read_blocked {s : State} {off : Nat} (h : Next (.host (.read off 4)) s)
    (hb : s.status.busy = true) (hoff : BlockedOff off) :
    step s = .next { flagged (served s) with rdata := some 0x00000000#32 } := by
  obtain ⟨hw, hl⟩ := blocked_of_blockedOff hoff
  rw [step_of_read h hw, hostRead_of_blocked (by simpa using hb) hl]
  rfl

/-- A blocked write, the issue of a command among them (20_memory.md R79). -/
theorem step_of_write_blocked {s : State} {off : Nat} {v : Word} (h : Next (.host (.write off 4 v)) s)
    (hb : s.status.busy = true) (hoff : BlockedOff off ∨ off = 0x00C) : step s = .next (flagged (served s)) := by
  have hloc : accessWf off 4 = true ∧ (locOf off = .cmd ∨ blocked (locOf off) = true) := by
    rcases hoff with hoff | rfl
    · exact (blocked_of_blockedOff hoff).imp_right .inr
    · exact ⟨by decide, .inl rfl⟩
  obtain ⟨hw, hl⟩ := hloc
  rw [step_of_write h hw, hostWrite_of_blocked (by simpa using hb) hl]
  rfl

/-- A CTRL write with bit 1 set is the soft reset, whatever BUSY is (70_reset_and_hazards.md R212). -/
theorem step_of_ctrlReset {s : State} {v : Word} (h : Next (.host (.write 0x004 4 v)) s) (hv : v.getLsbD 1 = true) :
    step s = .next (softReset (takeInput s)) := by
  have : writeCtrl v (takeInput s) = softReset (takeInput s) := if_pos hv
  exact (step_of_write_open h (by decide) (by decide) rfl).trans (congrArg _ this)

/-- Settles O45, one line of 20_memory.md R79 after the other. -/
theorem accessWhileBusyFollowsItsRule : Obligations.AccessWhileBusyFollowsItsRule := by
  intro s hb
  obtain ⟨-, hid⟩ := idRegisterFollowsItsRule
  obtain ⟨-, hctrl⟩ := ctrlRegisterReadsAndWritesIe
  have hclear : Status.clear.word = 0#32 := by decide
  refine ⟨fun off hoff h => step_of_read_blocked h hb hoff, fun off v hoff h => ?_, fun off hoff h => ?_,
    hctrl s, fun v h hv => ⟨_, step_of_ctrlReset h hv, hclear, rfl, rfl, rfl, rfl, rfl, rfl, rfl, rfl⟩,
    fun v h => step_of_write_open h (by decide) (by decide) rfl,
    fun off hoff => (unmappedAccessOnlySetsAccerr s off hoff).1,
    fun off v hoff => (unmappedAccessOnlySetsAccerr s off hoff).2 v⟩
  · rcases hoff with hoff | rfl | hoff
    · exact step_of_write_blocked h hb (.inl hoff)
    · exact hid s v h
    · exact step_of_write_blocked h hb (.inr hoff)
  · simp only [List.mem_cons, List.not_mem_nil, or_false] at hoff
    rcases hoff with rfl | rfl | rfl | rfl <;> exact ⟨_, step_of_read_open h (by decide) rfl, rfl⟩

end Sys2Proof.Proofs
end

section
/-! ### Harmless reads, and the RAM bytes -/

namespace Sys2Proof.Proofs
open Sys2Proof Sys2Proof.Machine Sys2Proof.Claims

/-- A read of a RAM byte that can be written shows it. -/
theorem readLoc_of_isRamOffset {l : Loc} (hl : l.wf = true) (hr : isRamOffset (offsetOf l) = true) (s : State) :
    readLoc l s = showByte (s.mem.read (offsetOf l)) s := by
  cases l with
  | buf _ | rem _ => rfl
  | gen k =>
    have hk : k ≠ 0 := by rintro rfl; cases hr
    exact if_neg hk
  | unmapped off =>
    simp only [Loc.wf, accessWf, Bool.and_eq_true, Bool.or_eq_true, beq_iff_eq, decide_eq_true_eq] at hl
    simp only [offsetOf, isRamOffset_iff] at hr
    omega
  | _ => cases hr

/-- A read of a register or of GEN[0] answers a word and changes nothing else. -/
theorem readLoc_of_not_isRamOffset {l : Loc} (hl : l.wf = true) (hu : unmapped l = false)
    (hr : isRamOffset (offsetOf l) = false) (s : State) : ∃ v, readLoc l s = answer v s := by
  cases l with
  | buf i => simp [offsetOf, isRamOffset_bufAddr (of_decide_eq_true hl)] at hr
  | rem j => simp [offsetOf, isRamOffset_remAddr (of_decide_eq_true hl)] at hr
  | gen k =>
    by_cases hk : k = 0
    · exact ⟨_, if_pos hk⟩
    · simp [offsetOf, isRamOffset_genAddr (Nat.pos_of_ne_zero hk) (of_decide_eq_true hl)] at hr
  | unmapped off => cases hu
  | _ => exact ⟨_, rfl⟩

/-- Settles O48: what is read is a register's word, a written byte, or a free value at an unwritten one. -/
theorem otherReadsChangeNothing : Obligations.OtherReadsChangeNothing := by
  intro s off h h4 hlt hun hnb
  have hw : accessWf off 4 = true := accessWf_iff.2 ⟨rfl, h4, hlt⟩
  obtain ⟨hoff, hl⟩ := offsetOf_locOf hw
  obtain ⟨hunmapped, -, hblocked, -⟩ := hoff ▸ offset_classes hl
  have hread : hostRead (locOf off) (takeInput s) = readLoc (locOf off) (takeInput s) :=
    if_neg (by simpa [← hblocked] using hnb)
  rw [step_of_read h hw, hread]
  cases hr : isRamOffset off with
  | false =>
    obtain ⟨v, hv⟩ := readLoc_of_not_isRamOffset hl (by simpa [hunmapped] using hun) (hoff.symm ▸ hr)
      (takeInput s)
    rw [hv]
    exact ⟨v, s.fresh, rfl, fun hne => absurd rfl hne⟩
  | true =>
    rw [readLoc_of_isRamOffset hl (hoff.symm ▸ hr), hoff, takeInput_mem]
    cases hm : s.mem.read off with
    | some b => exact ⟨_, s.fresh, rfl, fun hne => absurd rfl hne⟩
    | none => exact ⟨_, _, rfl, fun _ => ⟨rfl, rfl⟩⟩

/-- A write to BUF[i] or GEN[k], k ≥ 1, with the engine free stores the low byte at its offset (20_memory.md R64). -/
theorem step_of_write_ram {s : State} {off : Nat} {v : Word} (h : Next (.host (.write off 4 v)) s)
    (hb : s.status.busy = false)
    (hoff : (∃ i, i < 256 ∧ off = 0x400 + 4 * i) ∨ (∃ k, 1 ≤ k ∧ k ≤ 30 ∧ off = 0x800 + 4 * k)) :
    step s = .next { served s with mem := s.mem.write off (v.setWidth 8) } := by
  rcases hoff with ⟨i, hi, rfl⟩ | ⟨k, hk1, hk, rfl⟩
  · have hw : accessWf (0x400 + 4 * i) 4 = true := accessWf_of_isRamOffset (isRamOffset_bufAddr hi)
    have hl : locOf (0x400 + 4 * i) = .buf i := locOf_bufAddr hi
    rw [step_of_write_idle h hw (by simp [hl]) hb, hl]
    rfl
  · have hw : accessWf (0x800 + 4 * k) 4 = true := accessWf_of_isRamOffset (isRamOffset_genAddr hk1 (by omega))
    have hl : locOf (0x800 + 4 * k) = .gen k := locOf_genAddr (by omega)
    have hgen : writeLoc (.gen k) v (takeInput s) = { served s with mem := s.mem.write (genAddr k) (v.setWidth 8) } :=
      if_neg (by omega)
    rw [step_of_write_idle h hw (by simp [hl]) hb, hl, hgen]
    rfl

/-- Settles O41: a store by `step_of_write_ram` and the laws of the memory, a load by `readLoc_of_isRamOffset`. -/
theorem ramBytesAreStoredAndReadBack : Obligations.RamBytesAreStoredAndReadBack := by
  refine ⟨fun s v off hb hoff h => ⟨_, step_of_write_ram h hb hoff, ?_, fun a ha => ?_⟩,
    fun s off b hb hoff h hm => ?_⟩
  · rw [show BitVec.ofNat 8 (v.toNat % 256) = v.setWidth 8 from ofNat_mod_eq_setWidth 8 v]
    simp
  · exact Memory.read_write_other _ _ ha.symm
  · have hram : isRamOffset off = true := by
      rcases hoff with ⟨i, hi, rfl⟩ | ⟨k, hk1, hk, rfl⟩ | ⟨j, hj, rfl⟩
      · exact isRamOffset_bufAddr hi
      · exact isRamOffset_genAddr hk1 (by omega)
      · exact isRamOffset_remAddr hj
    have hw : accessWf off 4 = true := accessWf_of_isRamOffset hram
    obtain ⟨hloc, hl⟩ := offsetOf_locOf hw
    rw [step_of_read_idle h hw hb, readLoc_of_isRamOffset hl (hloc.symm ▸ hram), hloc, takeInput_mem, hm,
      BitVec.ofNat_toNat]
    rfl

end Sys2Proof.Proofs
end

section
/-! ### The decoder and its inverse

A word is a command exactly when it is one of the ten encodings, that is when it is below 0xA (30_encoding.md R97). -/

namespace Sys2Proof.Proofs
open Sys2Proof Sys2Proof.Machine Sys2Proof.Claims

theorem rsvField_toNat (cw : Word) : (rsvField cw).toNat = cw.toNat / 16 := by
  have h := word_of_fields cw
  have hop : (opField cw).toNat < 16 := (opField cw).isLt
  omega

theorem opField_toNat (cw : Word) : (opField cw).toNat = cw.toNat % 16 := by
  have h := word_of_fields cw
  have hop : (opField cw).toNat < 16 := (opField cw).isLt
  omega

theorem rsvField_eq_zero_iff (cw : Word) : rsvField cw = 0#28 ↔ cw.toNat / 16 = 0 := by
  rw [← rsvField_toNat, ← BitVec.toNat_inj, BitVec.toNat_ofNat, Nat.zero_mod]

/-- The opcodes that name no command are the reserved ones (30_encoding.md R93). -/
theorem decodeOp_eq_none_iff (op : BitVec 4) : decodeOp op = none ↔ 0xA ≤ op.toNat := by
  revert op
  decide

/-- What the decoder answers, by the two fields of the word (30_encoding.md R91, R93, R97). -/
theorem decode_cases (cw : Word) :
    (cw.toNat / 16 ≠ 0 ∧ decode cw = .illegal .reservedBits) ∨
    (cw.toNat / 16 = 0 ∧ 0xA ≤ cw.toNat % 16 ∧ decode cw = .illegal .reservedOpcode) ∨
    (cw.toNat / 16 = 0 ∧ cw.toNat % 16 < 0xA ∧ ∃ i, decode cw = .cmd i) := by
  rw [Ne, ← rsvField_eq_zero_iff, ← opField_toNat, ← Nat.not_le, ← decodeOp_eq_none_iff]
  by_cases hr : rsvField cw = 0#28
  · cases ho : decodeOp (opField cw) with
    | none => exact .inr (.inl ⟨hr, rfl, by simp [decode, hr, ho]⟩)
    | some i => exact .inr (.inr ⟨hr, by simp, i, by simp [decode, hr, ho]⟩)
  · exact .inl ⟨hr, by simp [decode, hr]⟩

theorem decode_illegal {cw : Word} (h : cw.toNat / 16 ≠ 0 ∨ 0xA ≤ cw.toNat % 16) :
    ∃ why, decode cw = .illegal why := by
  rcases decode_cases cw with ⟨-, hd⟩ | ⟨-, -, hd⟩ | ⟨hr, ho, -⟩
  · exact ⟨_, hd⟩
  · exact ⟨_, hd⟩
  · omega

theorem decode_command {cw : Word} (hr : cw.toNat / 16 = 0) (ho : cw.toNat % 16 < 0xA) : ∃ i, decode cw = .cmd i := by
  rcases decode_cases cw with ⟨hr', -⟩ | ⟨-, ho', -⟩ | ⟨-, -, hd⟩
  · omega
  · omega
  · exact hd

theorem decode_eq_cmd_iff {cw : Word} {i : Instr} : decode cw = .cmd i ↔ cw = encode i :=
  ⟨fun h => (encode_of_decode h).symm, fun h => h ▸ decode_encode i⟩

/-- The ten words of the opcode map are the encodings of the ten commands. -/
theorem mem_commandWords_iff {cw : Word} {i : Instr} : (cw, i) ∈ commandWords ↔ cw = encode i := by
  cases i <;> simp [commandWords, encode, opcode]

/-- A table word is cut to its length and then decoded; one longer than 32 bits is none (log 8). -/
theorem decodeTableWord_eq_some_iff {nbits w : Nat} {i : Instr} :
    decodeTableWord nbits w = some i ↔ nbits ≤ 32 ∧ decode (BitVec.ofNat 32 (w % 2 ^ nbits)) = .cmd i := by
  by_cases hn : nbits ≤ 32
  · cases hd : decode (BitVec.ofNat 32 (w % 2 ^ nbits)) <;> simp [decodeTableWord, hn, hd]
  · simp [decodeTableWord, hn]

/-- A number cut to at most 32 bits is the value of the word it is put in. -/
theorem toNat_ofNat_mod {nbits : Nat} (hn : nbits ≤ 32) (w : Nat) :
    (BitVec.ofNat 32 (w % 2 ^ nbits)).toNat = w % 2 ^ nbits := by
  have hlt : w % 2 ^ nbits < 2 ^ 32 :=
    (Nat.mod_lt _ (Nat.two_pow_pos nbits)).trans_le (Nat.pow_le_pow_right Nat.two_pos hn)
  rw [BitVec.toNat_ofNat, Nat.mod_eq_of_lt hlt]

/-- Settles O2: `decode_illegal` for the two illegal classes, and the opcode map is the graph of the encoder. -/
theorem decoderReadsExactlyTenWords : Obligations.DecoderReadsExactlyTenWords :=
  ⟨fun _ hr => decode_illegal (.inl hr), fun _ _ ho => decode_illegal (.inr ho),
    fun _ _ => decode_eq_cmd_iff.trans mem_commandWords_iff.symm⟩

/-- Settles O1: decoder and encoder both name the ten words. -/
theorem commandWordsDecodeAndEncode : Obligations.CommandWordsDecodeAndEncode := by
  rintro ⟨cw, i⟩ hp
  obtain rfl := mem_commandWords_iff.1 hp
  exact ⟨decode_encode i, rfl⟩

/-- Settles O3: the cut word fits in 32 bits, so it is the encoding as a word exactly if it is as a number. -/
theorem tableWordDecodesExactlyToItsEncoding : Obligations.TableWordDecodesExactlyToItsEncoding := by
  intro nbits w i _
  rw [decodeTableWord_eq_some_iff, decode_eq_cmd_iff]
  exact and_congr_right fun hn => by rw [← BitVec.toNat_inj, toNat_ofNat_mod hn]

end Sys2Proof.Proofs
end

section
/-! ### The issue of a word, by what the decoder makes of it -/

namespace Sys2Proof.Proofs
open Sys2Proof Sys2Proof.Machine Sys2Proof.Claims

theorem writeCmd_of_illegal {s : State} {cw : Word} {why : IllegalWord} (hb : s.status.busy = false)
    (hd : decode cw = .illegal why) : writeCmd exec cw s = .next (issueIllegal cw s) := by
  simp [writeCmd, hb, hd]

theorem writeCmd_of_cmd {s : State} {cw : Word} {i : Instr} (hb : s.status.busy = false)
    (hd : decode cw = .cmd i) : writeCmd exec cw s = exec i s := by
  simp [writeCmd, hb, hd]

/-- Settles O4: the issue of an illegal word in the state that has taken its write; every other word is a command. -/
theorem illegalWordIsRejected : Obligations.IllegalWordIsRejected := by
  refine ⟨fun s cw h hidle hcw => ?_, fun _ hr ho => decode_command hr ho⟩
  obtain ⟨hb, -⟩ := hidle
  obtain ⟨why, hd⟩ := decode_illegal hcw
  rw [step_of_cmdWrite h, writeCmd_of_illegal (by simpa using hb) hd]
  rfl

/-- Settles O5: with the engine free, the CMD write hands its command to `exec`. -/
theorem cmdWriteRunsTheDecodedCommand : Obligations.CmdWriteRunsTheDecodedCommand := by
  intro s cw i h hb hd
  rw [step_of_cmdWrite h, writeCmd_of_cmd (by simpa using hb) hd]
  rfl

end Sys2Proof.Proofs
end

section
/-! ### Host programs

What each kind of line does (30_encoding.md R95), and one round of WAIT (R96). -/

namespace Sys2Proof.Proofs
open Sys2Proof Sys2Proof.Machine Sys2Proof.Claims

theorem hostLine_wr {p : HostProgram} {h : HostCpu} {s : State} {lab : Option String} {l : HostLoc} {v : HostValue}
    {w : Word} (hp : p[h.line]? = some (lab, .wr l v)) (hv : v.word h = some w) :
    hostLine p h s = (h.advanceLine, step { s with inputs := .host (.write l.off 4 w) :: s.inputs }) := by
  simp [hostLine, hp, hv]

theorem hostLine_rd {p : HostProgram} {h : HostCpu} {s t : State} {lab : Option String} {l : HostLoc} {x : String}
    {w : Word} (hp : p[h.line]? = some (lab, .rd l x))
    (hs : step { s with inputs := .host (.read l.off 4) :: s.inputs } = .next t) (hw : t.rdata = some w) :
    hostLine p h s = ({ h.advanceLine with vars := (x, w) :: h.vars }, .next t) := by
  simp [hostLine, hp, hs, hw]

theorem hostLine_bne {p : HostProgram} {h : HostCpu} {s : State} {lab : Option String} {x : String}
    {f : Option StatusField} {v : Word} {label : String} (hp : p[h.line]? = some (lab, .bne x f v label)) :
    hostLine p h s = (h.branch p x f label (fun w => w != v), .next s) := by
  simp [hostLine, hp]

theorem hostLine_beq {p : HostProgram} {h : HostCpu} {s : State} {lab : Option String} {x : String}
    {f : Option StatusField} {v : Word} {label : String} (hp : p[h.line]? = some (lab, .beq x f v label)) :
    hostLine p h s = (h.branch p x f label (fun w => w == v), .next s) := by
  simp [hostLine, hp]

theorem hostLine_jmp {p : HostProgram} {h : HostCpu} {s : State} {lab : Option String} {label : String}
    (hp : p[h.line]? = some (lab, .jmp label)) : hostLine p h s = (h.goto p label, .next s) := by
  simp [hostLine, hp]

theorem hostLine_halt {p : HostProgram} {h : HostCpu} {s : State} {lab : Option String}
    (hp : p[h.line]? = some (lab, .halt)) : hostLine p h s = ({ h with halted := true }, .next s) := by
  simp [hostLine, hp]

/-- A branch on a variable that a read has set goes to its label or to the next line. -/
theorem branch_of_lookup {p : HostProgram} {h : HostCpu} {x : String} {f : Option StatusField} {label : String}
    {taken : Word → Bool} {v : Word} {n : Nat} (hx : h.vars.lookup x = some v) (hl : labelLine p label = some n) :
    h.branch p x f label taken = { h with line := if taken (branchValue f v) then n else h.line + 1 } := by
  simp only [HostCpu.branch, hx, HostCpu.goto, hl, HostCpu.advanceLine]
  split <;> rfl

/-- BUSY is bit 0 of STATUS (10_state.md R23). -/
theorem statusWord_mod_two (t : Status) : t.word.toNat % 2 = t.busy.toNat := by
  have hword := statusWord_toNat t
  have hbusy := t.busy.toNat_lt
  omega

theorem statusFieldOf_busy (t : Status) : statusFieldOf .busy t.word = if t.busy then 1#32 else 0#32 := by
  have hbit : (statusFieldOf .busy t.word).toNat = t.word.toNat % 2 := by simp [statusFieldOf, Nat.and_one_is_mod]
  apply BitVec.eq_of_toNat_eq
  rw [hbit, statusWord_mod_two]
  cases t.busy <;> rfl

/-- The read of WAIT puts STATUS in its variable. -/
theorem hostLine_wait_read (w x : String) (s : State) :
    ∃ t, hostLine (pseudoWait w x) { line := 0, vars := [], halted := false } s =
      ({ line := 1, vars := [(x, s.status.word)], halted := false }, .next t) := by
  have hnext : Next (.host (.read 0x008 4)) { s with inputs := .host (.read 0x008 4) :: s.inputs } := rfl
  exact ⟨_, hostLine_rd rfl (step_of_read_open hnext (by decide) rfl) rfl⟩

/-- The branch of WAIT goes back to the read if its variable shows BUSY = 1, and past the loop if it shows BUSY = 0. -/
theorem hostLine_wait_branch (w x : String) (t : Status) (s : State) :
    hostLine (pseudoWait w x) { line := 1, vars := [(x, t.word)], halted := false } s =
      ({ line := if t.busy then 0 else 2, vars := [(x, t.word)], halted := false }, .next s) := by
  have hx : [(x, t.word)].lookup x = some t.word := List.lookup_cons_self
  have hl : labelLine (pseudoWait w x) w = some 0 := by simp [labelLine, pseudoWait, List.findIdx?_cons]
  rw [hostLine_bne rfl, branch_of_lookup hx hl, branchValue, statusFieldOf_busy]
  cases t.busy <;> rfl

/-- Settles O60, one rule for each kind of line; a round of WAIT is its read and its branch on the STATUS read. -/
theorem hostLinesAreBusOperations : Obligations.HostLinesAreBusOperations := by
  refine ⟨fun _ _ _ _ _ _ _ hp hv => hostLine_wr hp hv, fun _ _ _ _ _ _ _ _ hp hs hw => hostLine_rd hp hs hw,
    fun _ _ _ _ _ _ _ _ hp => ?_, fun s w x => ?_⟩
  · rcases hp with hp | hp | hp | hp
    · rw [hostLine_bne hp]
    · rw [hostLine_beq hp]
    · rw [hostLine_jmp hp]
    · rw [hostLine_halt hp]
  · obtain ⟨t, hread⟩ := hostLine_wait_read w x s
    refine ⟨_, _, t, hread, hostLine_wait_branch w x s.status t, rfl, ?_⟩
    cases s.status.busy <;> simp

end Sys2Proof.Proofs
end

section
/-! ### The laws of the field

The product is additive in each operand (Laws/Field.lean), and every byte is a sum of the eight powers x^i, i < 8: so
an equation that is additive in each of its bytes holds if it holds of these powers. -/

namespace Sys2Proof.Proofs
open Sys2Proof Sys2Proof.Machine Sys2Proof.Claims

/-- The sum of the powers x^i at the exponents of a list. -/
def sumOfPowers (l : List (Fin 8)) : Byte := (l.map fun i => BitVec.twoPow 8 i).foldr (· ^^^ ·) 0#8

theorem sumOfPowers_bits (a : Byte) : sumOfPowers ((List.finRange 8).filter fun i => a.getLsbD i) = a := by
  revert a
  decide +kernel

/-- What holds of the eight powers x^i, and of the sum of two bytes of which it holds, holds of every byte. -/
theorem byte_induction {P : Byte → Prop} (hpow : ∀ i : Fin 8, P (BitVec.twoPow 8 i))
    (hxor : ∀ a b, P a → P b → P (a ^^^ b)) (a : Byte) : P a := by
  have hsum : ∀ l, P (sumOfPowers l) := by
    intro l
    induction l with
    | nil =>
      have hzero := hxor _ _ (hpow 0) (hpow 0)
      rwa [BitVec.xor_self] at hzero
    | cons i l ih => exact hxor _ _ (hpow i) ih
  exact sumOfPowers_bits a ▸ hsum _

theorem gfMul_comm (a b : Byte) : gfMul a b = gfMul b a := by
  induction a using byte_induction with
  | hxor x y hx hy => rw [gfMul_xor_left, gfMul_xor_right, hx, hy]
  | hpow i =>
    induction b using byte_induction with
    | hxor x y hx hy => rw [gfMul_xor_left, gfMul_xor_right, hx, hy]
    | hpow j =>
      revert i j
      decide +kernel

theorem gfMul_assoc (a b c : Byte) : gfMul (gfMul a b) c = gfMul a (gfMul b c) := by
  induction a using byte_induction with
  | hxor x y hx hy => simp only [gfMul_xor_left, hx, hy]
  | hpow i =>
    induction b using byte_induction with
    | hxor x y hx hy => simp only [gfMul_xor_left, gfMul_xor_right, hx, hy]
    | hpow j =>
      induction c using byte_induction with
      | hxor x y hx hy => simp only [gfMul_xor_right, hx, hy]
      | hpow k =>
        revert i j k
        decide +kernel

@[simp] theorem gfMul_zero (a : Byte) : gfMul a 0#8 = 0#8 := by
  have h := gfMul_xor_right a 0#8 0#8
  rwa [BitVec.xor_self, BitVec.xor_self] at h

@[simp] theorem zero_gfMul (a : Byte) : gfMul 0#8 a = 0#8 := by rw [gfMul_comm, gfMul_zero]

@[simp] theorem gfMul_one (a : Byte) : gfMul a 1#8 = a := by
  induction a using byte_induction with
  | hxor x y hx hy => rw [gfMul_xor_left, hx, hy]
  | hpow i =>
    revert i
    decide

@[simp] theorem one_gfMul (a : Byte) : gfMul 1#8 a = a := by rw [gfMul_comm, gfMul_one]

end Sys2Proof.Proofs
end

section
/-! ### The tables and the powers of α

EXP is the list of the powers of α, whose period is 255; LOG is checked against it once, and the rest follows by
counting: 255 exponents reach all 255 nonzero bytes. -/

namespace Sys2Proof.Proofs
open Sys2Proof Sys2Proof.Machine Sys2Proof.Claims

/-- The n-th power of α = 0x02 (40_gf_field.md R113); `expAt_eq_alphaPow` finds it in the table. -/
def alphaPow (n : Nat) : Byte := (gfMul 0x02#8)^[n] 0x01#8

@[simp] theorem alphaPow_zero : alphaPow 0 = 0x01#8 := rfl

theorem alphaPow_succ (n : Nat) : alphaPow (n + 1) = gfMul 0x02#8 (alphaPow n) := Function.iterate_succ_apply' _ _ _

theorem alphaPow_add (m n : Nat) : alphaPow (m + n) = gfMul (alphaPow m) (alphaPow n) := by
  induction m with
  | zero => rw [Nat.zero_add, alphaPow_zero, one_gfMul]
  | succ m ih => rw [Nat.succ_add, alphaPow_succ, alphaPow_succ, ih, gfMul_assoc]

theorem expTable_eq_iterate : expTable = List.iterate (gfMul 0x02#8) 0x01#8 256 := by decide +kernel

theorem expAt_eq_alphaPow {i : Nat} (hi : i < 256) : expAt i = alphaPow i := by
  have hlt : i < (List.iterate (gfMul 0x02#8) 0x01#8 256).length := by rwa [List.length_iterate]
  rw [expAt, expTable_eq_iterate, List.getD_eq_getElem _ _ hlt, List.getElem_iterate, alphaPow]

@[simp] theorem expAt_zero : expAt 0 = 0x01#8 := rfl

@[simp] theorem expAt_255 : expAt 255 = 0x01#8 := by decide

/-- Powers of α repeat after 255 (40_gf_field.md R117). -/
theorem alphaPow_mod (n : Nat) : alphaPow (n % 255) = alphaPow n := by
  have hperiod : Function.IsPeriodicPt (gfMul 0x02#8) 255 0x01#8 := by
    rw [Function.IsPeriodicPt, Function.IsFixedPt, ← alphaPow, ← expAt_eq_alphaPow (by decide), expAt_255]
  exact hperiod.iterate_mod_apply n

theorem expAt_mod (n : Nat) : expAt (n % 255) = alphaPow n := by
  rw [expAt_eq_alphaPow (by omega), alphaPow_mod]

/-- Exponents add modulo 255. -/
theorem gfMul_expAt {i j : Nat} (hi : i < 255) (hj : j < 255) : gfMul (expAt i) (expAt j) = expAt ((i + j) % 255) := by
  rw [expAt_mod, alphaPow_add, expAt_eq_alphaPow (by omega), expAt_eq_alphaPow (by omega)]

/-- The table LOG, entry by entry (40_gf_field.md R114). -/
theorem logAt_of_ne_zero {a : Byte} (ha : a ≠ 0#8) : ∃ l, logAt a = some l ∧ l.toNat ≤ 254 ∧ expAt l.toNat = a := by
  have table : ∀ a : Byte, a ≠ 0#8 →
      (logAt a).any (fun l => decide (l.toNat ≤ 254 ∧ expAt l.toNat = a)) = true := by decide +kernel
  obtain ⟨l, hl, h⟩ := (Option.any_eq_true _ _).1 (table a ha)
  exact ⟨l, hl, of_decide_eq_true h⟩

@[simp] theorem logAt_zero : logAt 0#8 = none := rfl

theorem logAt_le {a l : Byte} (h : logAt a = some l) : l.toNat ≤ 254 := by
  have ha : a ≠ 0#8 := by rintro rfl; cases h
  obtain ⟨l', hl', hle, -⟩ := logAt_of_ne_zero ha
  rw [h] at hl'
  exact Option.some.inj hl' ▸ hle

theorem card_nonzero : (Finset.univ.erase (0#8 : Byte)).card = 255 := by
  rw [Finset.card_erase_of_mem (Finset.mem_univ _), Finset.card_univ, ← FinEnum.card_eq_fintypeCard,
    FinEnum.card_bitVec]
  rfl

/-- The exponents below 255 reach exactly the nonzero bytes: they reach each, and there are no more of them. -/
theorem image_expAt : (Finset.range 255).image expAt = Finset.univ.erase 0#8 := by
  refine (Finset.eq_of_subset_of_card_le (fun a ha => ?_) ?_).symm
  · obtain ⟨l, -, hle, hexp⟩ := logAt_of_ne_zero (Finset.ne_of_mem_erase ha)
    exact Finset.mem_image.2 ⟨l.toNat, Finset.mem_range.2 (by omega), hexp⟩
  · rw [card_nonzero]
    exact Finset.card_image_le.trans_eq (Finset.card_range 255)

theorem expAt_ne_zero {i : Nat} (hi : i < 255) : expAt i ≠ 0#8 := by
  have h : expAt i ∈ (Finset.range 255).image expAt := Finset.mem_image_of_mem _ (Finset.mem_range.2 hi)
  rw [image_expAt] at h
  exact Finset.ne_of_mem_erase h

theorem expAt_inj {i j : Nat} (hi : i < 255) (hj : j < 255) (h : expAt i = expAt j) : i = j := by
  have hcard : ((Finset.range 255).image expAt).card = (Finset.range 255).card := by
    rw [image_expAt, card_nonzero, Finset.card_range]
  exact Finset.card_image_iff.1 hcard (Finset.mem_coe.2 (Finset.mem_range.2 hi))
    (Finset.mem_coe.2 (Finset.mem_range.2 hj)) h

/-- The table formula for a product (40_gf_field.md R115). -/
theorem gfMul_eq_expAt {a b : Byte} (ha : a ≠ 0#8) (hb : b ≠ 0#8) :
    ∃ x y : Byte, logAt a = some x ∧ logAt b = some y ∧ gfMul a b = expAt ((x.toNat + y.toNat) % 255) := by
  obtain ⟨x, hx, hxle, hxe⟩ := logAt_of_ne_zero ha
  obtain ⟨y, hy, hyle, hye⟩ := logAt_of_ne_zero hb
  refine ⟨x, y, hx, hy, ?_⟩
  rw [← gfMul_expAt (by omega) (by omega), hxe, hye]

theorem eq_zero_of_gfMul_eq_zero {a b : Byte} (h : gfMul a b = 0#8) : a = 0#8 ∨ b = 0#8 := by
  by_contra! hne
  obtain ⟨ha, hb⟩ := hne
  obtain ⟨x, y, -, -, hxy⟩ := gfMul_eq_expAt ha hb
  exact expAt_ne_zero (Nat.mod_lt _ (by decide)) (hxy.symm.trans h)

/-- A byte has at most one inverse. -/
theorem eq_of_gfMul_eq_one {a b c : Byte} (hb : gfMul a b = 1#8) (hc : gfMul a c = 1#8) : c = b := by
  calc c = gfMul (gfMul a b) c := by rw [hb, one_gfMul]
    _ = gfMul b (gfMul a c) := by rw [gfMul_comm a b, gfMul_assoc]
    _ = b := by rw [hc, gfMul_one]

/-- The table formula for the inverse (40_gf_field.md R116). -/
theorem gfInv_of_ne_zero {a : Byte} (ha : a ≠ 0#8) :
    ∃ b l : Byte, logAt a = some l ∧ b = expAt ((255 - l.toNat) % 255) ∧ gfInv a = some b ∧ gfMul a b = 1#8 := by
  obtain ⟨l, hl, hle, hexp⟩ := logAt_of_ne_zero ha
  refine ⟨_, l, hl, rfl, by rw [gfInv, hl, Option.map_some], ?_⟩
  have hsum : (l.toNat + (255 - l.toNat) % 255) % 255 = 0 := by omega
  calc gfMul a (expAt ((255 - l.toNat) % 255))
      = gfMul (expAt l.toNat) (expAt ((255 - l.toNat) % 255)) := by rw [hexp]
    _ = expAt 0 := by rw [gfMul_expAt (by omega) (by omega), hsum]

/-- An inverse, found by multiplying, is the one the table formula gives. -/
theorem gfInv_eq_some {a b : Byte} (h : gfMul a b = 1#8) : gfInv a = some b := by
  have ha : a ≠ 0#8 := by
    rintro rfl
    rw [zero_gfMul] at h
    cases h
  obtain ⟨c, -, -, -, hc, hmul⟩ := gfInv_of_ne_zero ha
  rw [hc, eq_of_gfMul_eq_one h hmul]

/-- Settles O30, from additivity, the eight powers x^i, and the table formula for the last law. -/
theorem fieldLawsHold : Obligations.FieldLawsHold := fun a b c =>
  ⟨BitVec.xor_comm a b, gfMul_comm a b, gfMul_assoc a b c, gfMul_xor_right a b c, gfMul_one a, gfMul_zero a,
    eq_zero_of_gfMul_eq_zero⟩

/-- Settles O31: EXP is the list of the powers of α, and its first 255 entries are the nonzero bytes by counting. -/
theorem expHoldsThePowersOfAlpha : Obligations.ExpHoldsThePowersOfAlpha := by
  refine ⟨by rw [expTable_eq_iterate, List.length_iterate], expAt_zero, fun i hi => ?_, expAt_255,
    fun i hi => expAt_ne_zero hi, fun a ha => ?_⟩
  · rw [expAt_eq_alphaPow (by omega), expAt_eq_alphaPow (by omega), alphaPow_succ, gfMul_comm]
  · obtain ⟨l, -, hle, hexp⟩ := logAt_of_ne_zero ha
    exact ⟨l.toNat, by omega, hexp, fun j hj h => expAt_inj hj (by omega) (h.trans hexp.symm)⟩

/-- Settles O32: the entries of LOG, each the only exponent below 255 of its byte. -/
theorem logInvertsExp : Obligations.LogInvertsExp := by
  refine ⟨logAt_zero, fun a ha => ?_⟩
  obtain ⟨l, hl, hle, hexp⟩ := logAt_of_ne_zero ha
  exact ⟨l, hl, hle, hexp, fun j hj h => expAt_inj (by omega) (by omega) (h.trans hexp.symm)⟩

/-- Settles O33: nonzero operands are powers of α, and 0x00 annihilates. -/
theorem multiplicationByTablesIsExact : Obligations.MultiplicationByTablesIsExact := by
  refine ⟨fun a b ha hb => gfMul_eq_expAt ha hb, ?_⟩
  rintro a b (rfl | rfl)
  · exact zero_gfMul b
  · exact gfMul_zero a

/-- Settles O34: the table formula gives an inverse, and a byte has at most one. -/
theorem inverseIsTheUniqueOne : Obligations.InverseIsTheUniqueOne := by
  refine ⟨fun a ha => ?_, gfInv_eq_some (gfMul_one _), fun c h => ?_, rfl⟩
  · obtain ⟨b, l, hl, hb, hinv, hmul⟩ := gfInv_of_ne_zero ha
    exact ⟨b, l, hl, hb, hinv, hmul, fun c hc => eq_of_gfMul_eq_one hmul hc⟩
  · rw [zero_gfMul] at h
    cases h

/-- Settles O35: powers of α add their exponents, modulo 255 in the table. -/
theorem exponentsAddModulo255 : Obligations.ExponentsAddModulo255 := by
  refine ⟨fun i j hi hj => gfMul_expAt hi hj, expAt_255, fun j n hj => ?_, fun a b x y hx hy => ?_⟩
  · rw [expAt_mod]
    induction n with
    | zero => rfl
    | succ n ih =>
      rw [Function.iterate_succ_apply', ih, expAt_eq_alphaPow (by omega), ← alphaPow_add, Nat.mul_succ, Nat.add_comm]
  · have hxle := logAt_le hx
    have hyle := logAt_le hy
    omega

end Sys2Proof.Proofs
end

section
/-! ### The scalar commands -/

namespace Sys2Proof.Proofs
open Sys2Proof Sys2Proof.Machine Sys2Proof.Claims

/-- The issue, while idle, of a command that passes its checks (60_exceptions.md R182). -/
theorem exec_accepted {i : Instr} {s : State} (h : Idle s) (hc : check i s = .none) :
    exec i s = .next (acceptedAs (encode i) (opcode i) s) := by
  obtain ⟨-, hv⟩ := h
  rcases issue_cases i s with ⟨-, hi⟩ | ⟨hne, -⟩
  · rw [exec_idle i hv, hi]
    rfl
  · exact absurd hc hne

/-- The issue, while idle, of a command that fails a check (60_exceptions.md R182, R184). -/
theorem exec_rejected {i : Instr} {s : State} {e : ErrCode} (h : Idle s) (hc : check i s = e) (he : e ≠ .none) :
    exec i s = .next (rejectedAs (encode i) e.code s) := by
  obtain ⟨-, hv⟩ := h
  subst hc
  rcases issue_cases i s with ⟨hnone, -⟩ | ⟨-, hi⟩
  · exact absurd hnone he
  · rw [exec_idle i hv, hi]
    rfl

/-- The completion of a pending command (60_exceptions.md R186). -/
theorem exec_of_pending {i : Instr} {s : State} (h : Pending i s) : exec i s = .next (finish (effectOf i s)) := by
  obtain ⟨-, hv, -⟩ := h
  exact exec_pending i hv

/-- Settles O12: there is no check to fail, and the completion's record is the rule's. -/
theorem gfMulFollowsItsRule : Obligations.GfMulFollowsItsRule :=
  ⟨rfl, fun _ h => exec_accepted h rfl, fun _ h => exec_of_pending h,
    fun b => ⟨zero_gfMul b, gfMul_zero b, one_gfMul b⟩, rfl⟩

/-- Settles O13: an exponent is below 255 or is 255, where EXP wraps. -/
theorem gfExpFollowsItsRule : Obligations.GfExpFollowsItsRule := by
  refine ⟨rfl, fun _ h => exec_accepted h rfl, fun _ h => exec_of_pending h, expAt_zero, expAt_255, rfl, fun a => ?_⟩
  rcases Nat.lt_or_ge a.toNat 255 with h | h
  · exact expAt_ne_zero h
  · rw [show a.toNat = 255 by omega, expAt_255]
    decide

/-- Settles O14: LOG_ZERO is the only check, and past it LOG has an entry. -/
theorem gfLogFollowsItsRule : Obligations.GfLogFollowsItsRule := by
  refine ⟨rfl, fun s h ha => exec_rejected (i := .gfLog) (e := .logZero) h (if_pos ha) (by decide),
    fun s h ha => exec_accepted h ((check_eq_none _ _).2 ha), fun s h ha => ?_, rfl, rfl, rfl⟩
  obtain ⟨l, hl, hle, hexp⟩ := logAt_of_ne_zero ha
  refine ⟨l.toNat, hle, hexp, ?_⟩
  rw [exec_of_pending h, effectOf, hl, BitVec.ofNat_toNat, BitVec.setWidth_eq]
  rfl

/-- Settles O15: INV_ZERO is the only check, past it an inverse exists, and being inverse is symmetric. -/
theorem gfInvFollowsItsRule : Obligations.GfInvFollowsItsRule := by
  refine ⟨rfl, fun s h ha => exec_rejected (i := .gfInv) (e := .invZero) h (if_pos ha) (by decide),
    fun s h ha => exec_accepted h ((check_eq_none _ _).2 ha), fun s h ha => ?_,
    gfInv_eq_some (gfMul_one _), gfInv_eq_some rfl⟩
  obtain ⟨b, -, -, -, hinv, hmul⟩ := gfInv_of_ne_zero ha
  refine ⟨b, hmul, gfInv_eq_some ((gfMul_comm b _).trans hmul), hinv, ?_⟩
  rw [exec_of_pending h, effectOf, hinv]
  rfl

end Sys2Proof.Proofs
end

section
/-! ### RESULT -/

namespace Sys2Proof.Proofs
open Sys2Proof Sys2Proof.Machine Sys2Proof.Claims

theorem issue_result (i : Instr) (s : State) : (issue i s).result = s.result := by
  rcases issue_cases i s with ⟨-, h⟩ | ⟨-, h⟩ <;> rw [h] <;> rfl

/-- NOP and the polynomial commands leave RESULT. -/
theorem effectOf_result {i : Instr} (hi : i ∉ [Instr.gfMul, .gfExp, .gfLog, .gfInv]) (s : State) :
    (effectOf i s).result = s.result := by
  cases i with
  | gfMul | gfExp | gfLog | gfInv => exact absurd hi (by decide)
  | nop => rfl
  | genPoly | rsEncode | polyMod | polyMul | syndrome => exact storeBytes_result _ _ _ s

/-- The scalar commands leave the RAMs. -/
theorem effectOf_mem {i : Instr} (hi : i ∈ [Instr.gfMul, .gfExp, .gfLog, .gfInv]) (s : State) :
    (effectOf i s).mem = s.mem := by
  cases i with
  | gfMul | gfExp | gfLog | gfInv => exact storeResult_mem _ s
  | nop | genPoly | rsEncode | polyMod | polyMul | syndrome => exact absurd hi (by decide)

/-- A write that is not blocked reaches RESULT only as a soft reset. -/
theorem writeLoc_result {l : Loc} {v : Word} {s : State} (h : (writeLoc l v s).result ≠ s.result) :
    l = .ctrl ∧ v.getLsbD 1 = true := by
  cases l with
  | ctrl =>
    simp only [writeLoc, writeCtrl] at h
    split at h
    · next hv => exact ⟨rfl, hv⟩
    · exact absurd rfl h
  | gen k =>
    simp only [writeLoc] at h
    split at h <;> exact absurd rfl h
  | _ => exact absurd rfl h

/-- A host write with BUSY and PEND.valid in agreement reaches RESULT only as a soft reset: with the engine free, a
command's step is its issue. -/
theorem hostWrite_result {l : Loc} {v : Word} {s t : State} (hbp : s.status.busy = s.pend.valid)
    (h : hostWrite exec l v s = .next t) (hne : t.result ≠ s.result) : l = .ctrl ∧ v.getLsbD 1 = true := by
  rcases hostWrite_cases h with ⟨-, -, rfl⟩ | ⟨-, -, -, rfl⟩ | ⟨hb, -, i, -, he⟩ | ⟨-, -, rfl⟩
  · exact absurd rfl hne
  · exact absurd rfl hne
  · rw [exec_idle i (hbp.symm.trans hb)] at he
    exact absurd (Host.Outcome.next.inj he ▸ issue_result i s) hne
  · exact writeLoc_result hne

/-- What changes RESULT (40_gf_field.md R125). -/
theorem step_result {s t : State} (hbp : s.status.busy = s.pend.valid) (hs : step s = .next t)
    (hne : t.result ≠ s.result) :
    (∃ i ∈ [Instr.gfMul, .gfExp, .gfLog, .gfInv], EngineNext s ∧ Pending i s) ∨ Next .rst s ∨
      ∃ v : Word, Next (.host (.write 0x004 4 v)) s ∧ v.getLsbD 1 = true := by
  rcases nextInput_cases s with ⟨off, n, hx⟩ | ⟨off, n, v, hx⟩ | hx | hx
  · obtain ⟨-, -, rfl⟩ := read_of_step hx hs
    obtain ⟨r, m, e, h⟩ := hostRead_frame (locOf off) (takeInput s)
    exact absurd (by rw [h]; rfl) hne
  · obtain ⟨rfl, hw, h⟩ := write_of_step hx hs
    obtain ⟨hoff, -⟩ := offsetOf_locOf hw
    obtain ⟨hl, hv⟩ := hostWrite_result (s := takeInput s) hbp h hne
    obtain rfl : 0x004 = off := by rw [hl] at hoff; exact hoff
    exact .inr (.inr ⟨v, hx, hv⟩)
  · rcases engine_of_step hx hs with ⟨-, rfl⟩ | ⟨hv, i, hop, rfl⟩
    · exact absurd rfl hne
    · have hi : i ∈ [Instr.gfMul, .gfExp, .gfLog, .gfInv] := by
        by_contra hi
        exact hne (effectOf_result hi (takeInput s))
      exact .inl ⟨i, hi, hx, hbp.trans hv, hv, hop⟩
  · exact .inr (.inl hx)

/-- Settles O16: an issue and a completion by their frames, a step by `step_result`, and the resets by their record. -/
theorem resultIsWrittenOnlyByScalarCommands : Obligations.ResultIsWrittenOnlyByScalarCommands := by
  refine ⟨fun s i ⟨_, hv⟩ => ?_, fun s i hp hi => ⟨_, exec_of_pending hp, effectOf_result hi s⟩,
    fun s i hp hi => ⟨_, exec_of_pending hp, effectOf_mem hi s⟩, fun s t hbp hs hne => step_result hbp hs hne,
    fun s v h hv => ⟨_, step_of_ctrlReset h hv, rfl⟩, fun s h => ⟨_, step_of_rst h, rfl⟩, fun s h hb => ?_⟩
  · obtain ⟨-, -, -, -, -, hmem⟩ := issue_frame i s
    exact ⟨_, exec_idle i hv, issue_result i s, hmem⟩
  · exact ⟨_, _, step_of_read_idle h (by decide) hb, rfl, BitVec.toNat_setWidth_of_le (by decide)⟩

end Sys2Proof.Proofs
end

section
/-! ### Coefficient lists

The product of a polynomial with a monic one is a recursion on the first factor: `convolve_cons` says that the product
with c·x^n + q is one round of the synthetic division of 41_rs_poly.md R142, run backwards on the product with q. -/

namespace Sys2Proof.Proofs
open Sys2Proof Sys2Proof.Machine Sys2Proof.Claims

theorem getElem_subScaled (c : Byte) (g w : List Byte) {k : Nat} (hk : k < w.length) :
    (subScaled c g w)[k]'(by rwa [length_subScaled]) = w[k] ^^^ gfMul c (g.getD k 0#8) := by
  induction g generalizing w k with
  | nil => simp [subScaled]
  | cons a g ih =>
    cases w with
    | nil => exact absurd hk (Nat.not_lt_zero k)
    | cons b w =>
      cases k with
      | zero => rfl
      | succ k => simpa [subScaled] using ih w (by simpa using hk)

@[simp] theorem subScaled_zero (g w : List Byte) : subScaled 0#8 g w = w :=
  List.ext_getElem (length_subScaled _ _ _) fun k _ hk => by simp [getElem_subScaled _ _ _ hk]

/-- A scaled divisor of zeros takes nothing away. -/
@[simp] theorem subScaled_replicate_zero (c : Byte) (e : Nat) (w : List Byte) :
    subScaled c (List.replicate e 0#8) w = w :=
  List.ext_getElem (length_subScaled _ _ _) fun k _ hk => by
    simp [getElem_subScaled _ _ _ hk]

/-- Taking the same scaled divisor away twice changes nothing. -/
@[simp] theorem subScaled_subScaled (c : Byte) (g w : List Byte) : subScaled c g (subScaled c g w) = w :=
  List.ext_getElem (by simp) fun k _ hk => by
    rw [getElem_subScaled _ _ _ (by simpa using hk), getElem_subScaled _ _ _ hk, BitVec.xor_assoc, BitVec.xor_self,
      BitVec.xor_zero]

@[simp] theorem length_addPoly (p r : List Byte) : (addPoly p r).length = min p.length r.length := List.length_zipWith

theorem addPoly_subScaled (c : Byte) (g p r : List Byte) :
    addPoly (subScaled c g p) r = subScaled c g (addPoly p r) :=
  List.ext_getElem (by simp) fun k hk _ => by
    have hsum : k < (addPoly p r).length := by simpa using hk
    have hp : k < p.length := by rw [length_addPoly] at hsum; omega
    rw [getElem_subScaled _ _ _ hsum]
    simp only [addPoly, List.getElem_zipWith, getElem_subScaled _ _ _ hp]
    ac_rfl

@[simp] theorem addPoly_cons (a b : Byte) (p r : List Byte) : addPoly (a :: p) (b :: r) = (a ^^^ b) :: addPoly p r := rfl

theorem addPoly_zeros {p : List Byte} {n : Nat} (h : p.length = n) : addPoly p (List.replicate n 0#8) = p :=
  List.ext_getElem (by simp [h]) fun k _ _ => by simp [addPoly]

theorem zeros_addPoly {p : List Byte} {n : Nat} (h : p.length = n) : addPoly (List.replicate n 0#8) p = p :=
  List.ext_getElem (by simp [h]) fun k _ _ => by simp [addPoly]

/-- Adding the same polynomial twice changes nothing. -/
theorem addPoly_addPoly_same {p r : List Byte} (h : p.length = r.length) : addPoly (addPoly p r) r = p :=
  List.ext_getElem (by simp [h]) fun k _ _ => by simp [addPoly]

theorem addPoly_append {a b c d : List Byte} (h : a.length = c.length) :
    addPoly (a ++ b) (c ++ d) = addPoly a c ++ addPoly b d := List.zipWith_append h

/-- A conditional sum, from either end. -/
theorem foldl_ite_xor (p : Nat → Prop) [DecidablePred p] (f : Nat → Byte) (l : List Nat) (a : Byte) :
    l.foldl (fun acc i => if p i then acc ^^^ f i else acc) a =
      a ^^^ l.foldr (fun i acc => if p i then f i ^^^ acc else acc) 0#8 := by
  induction l generalizing a with
  | nil => simp
  | cons i l ih =>
    rw [List.foldl_cons, ih, List.foldr_cons]
    split <;> simp [BitVec.xor_assoc]

/-- P[m] of 41_rs_poly.md R148, summed from the last term to the first. -/
theorem convAt_eq_foldr (b g : List Byte) (m : Nat) : convAt b g m =
    (List.range b.length).foldr (fun i acc =>
      if i ≤ m ∧ m - i < g.length then gfMul (b.getD i 0#8) (g.getD (m - i) 0#8) ^^^ acc else acc) 0#8 := by
  rw [convAt, foldl_ite_xor, BitVec.zero_xor]

@[simp] theorem convAt_nil (g : List Byte) (m : Nat) : convAt [] g m = 0#8 := rfl

theorem convAt_cons_zero (c a : Byte) (q g : List Byte) : convAt (c :: q) (a :: g) 0 = gfMul c a := by
  simp [convAt_eq_foldr, List.range_succ_eq_map, List.foldr_map]

theorem convAt_cons_succ (c : Byte) (q g : List Byte) (m : Nat) :
    convAt (c :: q) g (m + 1) = convAt q g m ^^^ gfMul c (g.getD (m + 1) 0#8) := by
  rw [convAt_eq_foldr, convAt_eq_foldr, List.length_cons, List.range_succ_eq_map, List.foldr_cons, List.foldr_map]
  simp only [Nat.succ_eq_add_one, Nat.add_le_add_iff_right, Nat.add_sub_add_right, List.getD_cons_succ,
    List.getD_cons_zero, Nat.zero_le, true_and, Nat.sub_zero]
  split
  · exact BitVec.xor_comm _ _
  · next h => rw [List.getD_eq_default _ _ (Nat.le_of_not_lt h), gfMul_zero, BitVec.xor_zero]

@[simp] theorem convolve_nil (g : List Byte) (n : Nat) : convolve [] g n = List.replicate n 0#8 :=
  List.ext_getElem (by simp) fun k _ _ => by simp [convolve]

theorem getElem_convolve (b g : List Byte) {n k : Nat} (hk : k < (convolve b g n).length) :
    (convolve b g n)[k] = convAt b g k := by simp [convolve]

/-- The product with a monic polynomial, by recursion on the first factor. -/
theorem convolve_cons (c : Byte) (q g : List Byte) (n : Nat) :
    convolve (c :: q) (1#8 :: g) (n + 1) = c :: subScaled c g (convolve q (1#8 :: g) n) := by
  rw [convolve, List.range_succ_eq_map, List.map_cons, convAt_cons_zero, gfMul_one, List.map_map]
  congr 1
  refine List.ext_getElem (by simp) fun k hk _ => ?_
  rw [getElem_subScaled _ _ _ (by simpa using hk), getElem_convolve]
  simp [convAt_cons_succ]

end Sys2Proof.Proofs
end

section
/-! ### Synthetic division (41_rs_poly.md R142) -/

namespace Sys2Proof.Proofs
open Sys2Proof Sys2Proof.Machine Sys2Proof.Claims

/-- A round of the division, whose leading byte 0x00 needs no case of its own when the divisor is written. -/
theorem sdiv_cons (g w : List Byte) (n : Nat) (c : Byte) :
    sdiv (some g) (n + 1) (c :: w) = sdiv (some g) n (subScaled c g w) := by
  rw [sdiv]
  split
  · next h => rw [h, subScaled_zero]
  · rfl

/-- A round of the division and a step of the product undo each other. -/
theorem isDivision_cons_iff {g w q r : List Byte} {n : Nat} {c d : Byte} :
    IsDivision g (n + 1) (c :: w) (d :: q) r ↔ c = d ∧ IsDivision g n (subScaled c g w) q r := by
  have hround : ∀ x, w = subScaled c g x ↔ subScaled c g w = x := fun x =>
    ⟨fun h => by rw [h, subScaled_subScaled], fun h => by rw [← h, subScaled_subScaled]⟩
  simp only [IsDivision, Nat.succ_add, convolve_cons, List.replicate_succ, List.cons_append, addPoly_cons,
    addPoly_subScaled, BitVec.xor_zero, List.cons.injEq, List.length_cons, Nat.add_right_cancel_iff]
  constructor
  · rintro ⟨hq, hr, rfl, hw⟩
    exact ⟨rfl, hq, hr, (hround _).1 hw⟩
  · rintro ⟨rfl, hq, hr, hw⟩
    exact ⟨hq, hr, rfl, (hround _).2 hw⟩

theorem isDivision_zero_iff {g w r : List Byte} : IsDivision g 0 w [] r ↔ r.length = g.length ∧ w = r := by
  simp only [IsDivision, List.length_nil, true_and, Nat.zero_add, convolve_nil, List.replicate_zero, List.nil_append]
  exact and_congr_right fun h => by rw [zeros_addPoly h]

theorem length_of_isDivision {g w q r : List Byte} {n : Nat} (h : IsDivision g n w q r) : w.length = n + g.length := by
  obtain ⟨-, hr, rfl⟩ := h
  simp [hr]

/-- Every array has a quotient and a remainder. -/
theorem exists_isDivision (g w : List Byte) (n : Nat) (h : w.length = n + g.length) : ∃ q r, IsDivision g n w q r := by
  induction n generalizing w with
  | zero => exact ⟨[], w, isDivision_zero_iff.2 ⟨by omega, rfl⟩⟩
  | succ n ih =>
    cases w with
    | nil => rw [List.length_nil] at h; omega
    | cons c w =>
      obtain ⟨q, r, hqr⟩ := ih (subScaled c g w) (by rw [List.length_cons] at h; rw [length_subScaled]; omega)
      exact ⟨c :: q, r, isDivision_cons_iff.2 ⟨rfl, hqr⟩⟩

/-- Any remainder is the one the rounds compute. -/
theorem sdiv_of_isDivision {g w q r : List Byte} {n : Nat} (h : IsDivision g n w q r) : sdiv (some g) n w = some r := by
  induction n generalizing w q with
  | zero =>
    obtain rfl := List.length_eq_zero_iff.1 h.1
    rw [sdiv, (isDivision_zero_iff.1 h).2]
  | succ n ih =>
    obtain ⟨d, q, rfl⟩ := List.exists_cons_of_length_eq_add_one h.1
    obtain ⟨c, w, rfl⟩ := List.exists_cons_of_length_eq_add_one ((length_of_isDivision h).trans (Nat.succ_add _ _))
    rw [sdiv_cons]
    exact ih (isDivision_cons_iff.1 h).2

/-- The division of an array of n + E bytes has a result, and that is its remainder. -/
theorem sdiv_isDivision (g w : List Byte) (n : Nat) (h : w.length = n + g.length) :
    ∃ q r, sdiv (some g) n w = some r ∧ IsDivision g n w q r := by
  obtain ⟨q, r, hqr⟩ := exists_isDivision g w n h
  exact ⟨q, r, sdiv_of_isDivision hqr, hqr⟩

/-- Settles O20: a remainder exists, and each remainder is what the rounds compute. -/
theorem syntheticDivisionGivesTheUniqueRemainder : Obligations.SyntheticDivisionGivesTheUniqueRemainder := by
  intro g w n h
  obtain ⟨q, r, hr, hqr⟩ := sdiv_isDivision g w n h
  exact ⟨r, hr, ⟨q, hqr⟩, fun q' r' h' => Option.some.inj ((sdiv_of_isDivision h').symm.trans hr)⟩

/-- Zeros leave zeros, and no byte of the divisor is read. -/
theorem sdiv_zeros (g : Option (List Byte)) (n e : Nat) :
    sdiv g n (List.replicate (n + e) 0#8) = some (List.replicate e 0#8) := by
  induction n with
  | zero => rw [sdiv, Nat.zero_add]
  | succ n ih =>
    rw [Nat.succ_add, List.replicate_succ]
    exact ih

/-- The division by x^E drops the leading bytes. -/
theorem sdiv_zero_divisor (e n : Nat) (w : List Byte) :
    sdiv (some (List.replicate e 0#8)) n w = some (w.drop n) := by
  induction n generalizing w with
  | zero => rw [sdiv, List.drop_zero]
  | succ n ih =>
    cases w with
    | nil => rfl
    | cons c w => rw [sdiv_cons, subScaled_replicate_zero, ih, List.drop_succ_cons]

/-- A product leaves no remainder. -/
theorem sdiv_convolve (q g : List Byte) :
    sdiv (some g) q.length (convolve q (1#8 :: g) (q.length + g.length)) = some (List.replicate g.length 0#8) := by
  refine sdiv_of_isDivision (q := q) ⟨rfl, List.length_replicate, ?_⟩
  rw [List.replicate_append_replicate, addPoly_zeros (length_convolve _ _ _)]

/-- Data followed by the remainder of the shifted data leaves no remainder (41_rs_poly.md R150 item 1). -/
theorem sdiv_append_remainder {b g r : List Byte}
    (h : sdiv (some g) b.length (b ++ List.replicate g.length 0#8) = some r) :
    sdiv (some g) b.length (b ++ r) = some (List.replicate g.length 0#8) := by
  obtain ⟨q, r', hr', hq, hlen, hdiv⟩ := sdiv_isDivision g (b ++ List.replicate g.length 0#8) b.length (by simp)
  obtain rfl : r' = r := Option.some.inj (hr'.symm.trans h)
  refine sdiv_of_isDivision (q := q) ⟨hq, List.length_replicate, ?_⟩
  calc b ++ r' = addPoly (b ++ List.replicate g.length 0#8) (List.replicate b.length 0#8 ++ r') := by
        rw [addPoly_append (by simp), addPoly_zeros rfl, zeros_addPoly hlen]
    _ = convolve q (1#8 :: g) (b.length + g.length) := by
        rw [hdiv, addPoly_addPoly_same (by simp [hlen])]
    _ = addPoly (convolve q (1#8 :: g) (b.length + g.length))
          (List.replicate b.length 0#8 ++ List.replicate g.length 0#8) := by
        rw [List.replicate_append_replicate, addPoly_zeros (by simp)]

end Sys2Proof.Proofs
end

section
/-! ### Values of polynomials (41_rs_poly.md R149)

The value at a power of α, by recursion on the coefficients; the value of a product with a monic polynomial is the product
of the values. -/

namespace Sys2Proof.Proofs
open Sys2Proof Sys2Proof.Machine Sys2Proof.Claims

@[simp] theorem evalAt_nil (r : Byte) : evalAt r [] = 0#8 := rfl

/-- A power of a power of α. -/
theorem alphaPow_mul_succ (j n : Nat) : alphaPow (j * (n + 1)) = gfMul (alphaPow j) (alphaPow (j * n)) := by
  rw [Nat.mul_succ, Nat.add_comm, alphaPow_add]

/-- Horner's scheme from any start: what stands at the start is worth the power of the number of bytes to come. -/
theorem foldl_horner (j : Nat) (bs : List Byte) (s : Byte) :
    bs.foldl (fun s b => gfMul s (alphaPow j) ^^^ b) s =
      gfMul s (alphaPow (j * bs.length)) ^^^ evalAt (alphaPow j) bs := by
  induction bs generalizing s with
  | nil => simp
  | cons b bs ih =>
    rw [evalAt, List.foldl_cons, List.foldl_cons, ih, ih, List.length_cons, alphaPow_mul_succ, zero_gfMul,
      BitVec.zero_xor, gfMul_xor_left, gfMul_assoc, BitVec.xor_assoc]

/-- The leading coefficient is worth the highest power. -/
theorem evalAt_cons (j : Nat) (c : Byte) (bs : List Byte) : evalAt (alphaPow j) (c :: bs) =
    gfMul c (alphaPow (j * bs.length)) ^^^ evalAt (alphaPow j) bs := by
  rw [evalAt, List.foldl_cons, zero_gfMul, BitVec.zero_xor, foldl_horner]

/-- The value as the sum of 41_rs_poly.md R149. -/
theorem evalAt_eq_foldr (j : Nat) (bs : List Byte) : evalAt (alphaPow j) bs = (List.range bs.length).foldr
    (fun i acc => gfMul (bs.getD i 0#8) (expAt (j * (bs.length - 1 - i) % 255)) ^^^ acc) 0#8 := by
  induction bs with
  | nil => rfl
  | cons c bs ih =>
    rw [evalAt_cons, ih, List.length_cons, List.range_succ_eq_map, List.foldr_cons, List.foldr_map, expAt_mod]
    simp only [List.getD_cons_zero, List.getD_cons_succ, Nat.add_sub_cancel, Nat.sub_zero, Nat.succ_eq_add_one,
      Nat.sub_add_eq, Nat.sub_right_comm _ _ 1]

theorem evalAt_zeros (j n : Nat) : evalAt (alphaPow j) (List.replicate n 0#8) = 0#8 := by
  induction n with
  | zero => rfl
  | succ n ih => rw [List.replicate_succ, evalAt_cons, ih, zero_gfMul, BitVec.xor_zero]

theorem evalAt_subScaled (j : Nat) (c : Byte) {g w : List Byte} (h : g.length ≤ w.length) :
    evalAt (alphaPow j) (subScaled c g w) = evalAt (alphaPow j) w ^^^
      gfMul c (gfMul (evalAt (alphaPow j) g) (alphaPow (j * (w.length - g.length)))) := by
  induction g generalizing w with
  | nil => simp [subScaled]
  | cons a g ih =>
    cases w with
    | nil => exact absurd h (Nat.not_succ_le_zero _)
    | cons b w =>
      have hle : g.length ≤ w.length := Nat.le_of_succ_le_succ h
      have hpow : alphaPow (j * w.length) = gfMul (alphaPow (j * g.length)) (alphaPow (j * (w.length - g.length))) := by
        rw [← alphaPow_add, ← Nat.mul_add, Nat.add_sub_cancel' hle]
      simp only [subScaled, evalAt_cons, length_subScaled, ih hle, List.length_cons, Nat.add_sub_add_right, hpow,
        gfMul_xor_left, gfMul_xor_right, gfMul_assoc]
      ac_rfl

/-- The value of a product is the product of the values. -/
theorem evalAt_convolve (j : Nat) (q g : List Byte) :
    evalAt (alphaPow j) (convolve q (1#8 :: g) (q.length + g.length)) =
      gfMul (evalAt (alphaPow j) q) (evalAt (alphaPow j) (1#8 :: g)) := by
  induction q with
  | nil => rw [convolve_nil, evalAt_zeros, evalAt_nil, zero_gfMul]
  | cons c q ih =>
    have hpow : alphaPow (j * (q.length + g.length)) = gfMul (alphaPow (j * q.length)) (alphaPow (j * g.length)) := by
      rw [← alphaPow_add, ← Nat.mul_add]
    rw [List.length_cons, Nat.succ_add, convolve_cons, evalAt_cons, evalAt_subScaled _ _ (by simp), ih,
      length_subScaled, length_convolve, Nat.add_sub_cancel, hpow]
    simp only [evalAt_cons, one_gfMul, gfMul_xor_left, gfMul_xor_right, gfMul_assoc,
      gfMul_comm (evalAt (alphaPow j) g)]
    ac_rfl

end Sys2Proof.Proofs
end

section
/-! ### Generators (41_rs_poly.md R144, R145) -/

namespace Sys2Proof.Proofs
open Sys2Proof Sys2Proof.Machine Sys2Proof.Claims

/-- The round of 41_rs_poly.md R144 is the product with x ⊕ r. -/
theorem mulLinear_eq_convolve (r : Byte) (t : List Byte) : mulLinear r t = convolve t [1#8, r] (t.length + 1) := by
  induction t with
  | nil => simp [mulLinear]
  | cons c t ih =>
    rw [List.length_cons, convolve_cons, ← ih]
    cases t <;> simp [mulLinear, subScaled]

theorem genCoeffs_succ (j : Nat) : genCoeffs (j + 1) = convolve (genCoeffs j) [1#8, expAt j] (j + 2) := by
  rw [genCoeffs, mulLinear_eq_convolve, length_genCoeffs]

/-- Generators are monic. -/
theorem genCoeffs_eq_cons (e : Nat) : genCoeffs e = 1#8 :: (genCoeffs e).tail := by
  induction e with
  | zero => rfl
  | succ e ih =>
    rw [genCoeffs_succ, ih, convolve_cons]
    rfl

theorem length_tail_genCoeffs (e : Nat) : (genCoeffs e).tail.length = e := by simp

/-- The generator of degree e vanishes at the first e powers of α (41_rs_poly.md R150 item 4). -/
theorem evalAt_genCoeffs {j e : Nat} (hj : j < e) (he : e ≤ 256) :
    evalAt (alphaPow j) (genCoeffs e) = 0#8 := by
  induction e with
  | zero => exact absurd hj (Nat.not_lt_zero j)
  | succ e ih =>
    have hprod := evalAt_convolve j (genCoeffs e) [expAt e]
    rw [length_genCoeffs] at hprod
    rw [genCoeffs_succ]
    refine hprod.trans ?_
    rcases Nat.lt_succ_iff_lt_or_eq.1 hj with h | rfl
    · rw [ih h (by omega), zero_gfMul]
    · simp [evalAt_cons, expAt_eq_alphaPow (show j < 256 by omega)]

/-- A multiple of a generator vanishes where the generator does. -/
theorem evalAt_multiple {j e : Nat} (hj : j < e) (he : e ≤ 256) (q : List Byte) :
    evalAt (alphaPow j) (convolve q (genCoeffs e) (q.length + e)) = 0#8 := by
  have hprod := evalAt_convolve j q (genCoeffs e).tail
  rw [← genCoeffs_eq_cons, length_tail_genCoeffs, evalAt_genCoeffs hj he, gfMul_zero] at hprod
  exact hprod

theorem generatorTable_coeffs :
    generatorTable.map Prod.fst = (List.range 30).map fun e => (genCoeffs (e + 1)).tail := by decide +kernel

theorem generatorTable_logs : ∀ row ∈ generatorTable, row.1.map logAt = row.2.map some := by decide +kernel

/-- A row of the table is the generator of its degree. -/
theorem tail_genCoeffs_of_mem {row : List Byte × List Byte} (h : row ∈ generatorTable) :
    row.1 = (genCoeffs row.1.length).tail := by
  have hmem := List.mem_map_of_mem (f := Prod.fst) h
  rw [generatorTable_coeffs] at hmem
  obtain ⟨e, -, he⟩ := List.mem_map.1 hmem
  rw [← he, length_tail_genCoeffs]

end Sys2Proof.Proofs
end

section
/-! ### Issue and completion of the polynomial commands

One rule per command for what its completion leaves, given the operand bytes it reads. -/

namespace Sys2Proof.Proofs
open Sys2Proof Sys2Proof.Machine Sys2Proof.Claims

/-- The test of the issue checks on E. -/
theorem elen_out_of_range_iff (s : State) : (s.elen.toNat = 0 ∨ Config.eMax < s.elen.toNat) ↔ ¬GoodElen s := by
  simp only [GoodElen, Config.eMax]
  omega

theorem check_eq_badElen {i : Instr} {s : State} (hi : i ∈ [Instr.genPoly, .rsEncode, .polyMod, .polyMul, .syndrome])
    (h : ¬GoodElen s) : check i s = .badElen := by
  have he := (elen_out_of_range_iff s).2 h
  cases i with
  | genPoly | rsEncode | polyMod | polyMul | syndrome => exact if_pos he
  | nop | gfMul | gfExp | gfLog | gfInv => exact absurd hi (by decide)

theorem check_eq_badLen {i : Instr} {s : State} (hi : i ∈ [Instr.rsEncode, .polyMod, .syndrome])
    (h : GoodElen s) (hd : 256 < s.dlen.toNat) : check i s = .badLen := by
  have he := fun h' => (elen_out_of_range_iff s).1 h' h
  cases i with
  | rsEncode | polyMod | syndrome => exact (if_neg he).trans (if_pos hd)
  | nop | gfMul | gfExp | gfLog | gfInv | genPoly | polyMul => exact absurd hi (by decide)

theorem check_polyMul_eq_badLen {s : State} (h : GoodElen s) (hd : 256 < s.dlen.toNat + s.elen.toNat) :
    check .polyMul s = .badLen := by
  have he := fun h' => (elen_out_of_range_iff s).1 h' h
  exact (if_neg he).trans (if_pos hd)

/-- The issue, while idle, of a command of the polynomial group with E out of range. -/
theorem exec_badElen {i : Instr} {s : State} (hi : i ∈ [Instr.genPoly, .rsEncode, .polyMod, .polyMul, .syndrome])
    (h : Idle s) (he : ¬GoodElen s) : exec i s = .next (rejectedAs (encode i) 4#4 s) :=
  exec_rejected h (check_eq_badElen hi he) (by decide)

/-- The issue, while idle, of RS_ENCODE, POLY_MOD or SYNDROME with E in range and D too large. -/
theorem exec_badLen {i : Instr} {s : State} (hi : i ∈ [Instr.rsEncode, .polyMod, .syndrome])
    (h : Idle s) (he : GoodElen s) (hd : 256 < s.dlen.toNat) : exec i s = .next (rejectedAs (encode i) 5#4 s) :=
  exec_rejected h (check_eq_badLen hi he hd) (by decide)

theorem storedAt_writeBytes (m : Memory) (base : Nat) (bs : List Byte) : StoredAt base bs m (m.writeBytes base bs) :=
  ⟨fun _ hk => by rw [Memory.read_writeBytes_at hk, List.getD_eq_getElem _ _ hk],
    fun _ h => Memory.read_writeBytes_other h⟩

/-- The state after the completion of a command that writes `bs` from `base` on. -/
def completedWith (base : Nat) (bs : List Byte) (s : State) : State :=
  { completed s with mem := s.mem.writeBytes base bs }

theorem exec_genPoly {s : State} (h : Pending .genPoly s) :
    exec .genPoly s = .next (completedWith 0x804 (genCoeffs s.elen.toNat).tail s) := exec_of_pending h

/-- A completion whose result is known (41_rs_poly.md R140). -/
theorem exec_of_result {i : Instr} {s : State} {base n : Nat} {res : Option (List Byte)} {bs : List Byte}
    (h : Pending i s) (hi : effectOf i s = storeBytes base n res s) (hr : res = some bs) :
    exec i s = .next (completedWith base bs s) := by
  rw [exec_of_pending h, hi, hr]
  rfl

theorem exec_rsEncode {s : State} {b r : List Byte} (h : Pending .rsEncode s)
    (hb : s.mem.readBytes 0x400 s.dlen.toNat = some b)
    (hr : sdiv (s.mem.readBytes 0x804 s.elen.toNat) s.dlen.toNat (b ++ List.replicate s.elen.toNat 0#8) = some r) :
    exec .rsEncode s = .next (completedWith 0xC00 r s) := by
  refine exec_of_result h rfl ?_
  have hbuf : bufOperand s = some b := hb
  rw [rsEncodeResult, hbuf]
  exact hr

/-- RS_ENCODE on written operands writes the remainder of the shifted data. -/
theorem exec_rsEncode_remainder {s : State} {b g : List Byte} (h : Pending .rsEncode s)
    (hb : s.mem.readBytes 0x400 s.dlen.toNat = some b) (hg : s.mem.readBytes 0x804 s.elen.toNat = some g) :
    ∃ q r, sdiv (some g) s.dlen.toNat (b ++ List.replicate s.elen.toNat 0#8) = some r ∧
      IsDivision g s.dlen.toNat (b ++ List.replicate s.elen.toNat 0#8) q r ∧
      exec .rsEncode s = .next (completedWith 0xC00 r s) := by
  obtain ⟨q, r, hr, hqr⟩ := sdiv_isDivision g (b ++ List.replicate s.elen.toNat 0#8) s.dlen.toNat
    (by simp [Memory.length_of_readBytes hb, Memory.length_of_readBytes hg])
  exact ⟨q, r, hr, hqr, exec_rsEncode h hb (hg ▸ hr)⟩

theorem exec_polyMod {s : State} {b r : List Byte} (h : Pending .polyMod s)
    (hb : s.mem.readBytes 0x400 s.dlen.toNat = some b)
    (hr : sdiv (s.mem.readBytes 0x804 s.elen.toNat) (max s.dlen.toNat s.elen.toNat - s.elen.toNat)
      (List.replicate (max s.dlen.toNat s.elen.toNat - s.dlen.toNat) 0#8 ++ b) = some r) :
    exec .polyMod s = .next (completedWith 0xC00 r s) := by
  refine exec_of_result h rfl ?_
  have hbuf : bufOperand s = some b := hb
  rw [polyModResult, hbuf]
  exact hr

theorem exec_polyMod_of_ge {s : State} {b r : List Byte} (h : Pending .polyMod s) (hle : s.elen.toNat ≤ s.dlen.toNat)
    (hb : s.mem.readBytes 0x400 s.dlen.toNat = some b)
    (hr : sdiv (s.mem.readBytes 0x804 s.elen.toNat) (s.dlen.toNat - s.elen.toNat) b = some r) :
    exec .polyMod s = .next (completedWith 0xC00 r s) := by
  refine exec_polyMod h hb ?_
  rw [Nat.max_eq_left hle, Nat.sub_self]
  exact hr

theorem exec_polyMul {s : State} {b g : List Byte} (h : Pending .polyMul s)
    (hb : s.mem.readBytes 0x400 s.dlen.toNat = some b) (hg : s.mem.readBytes 0x804 s.elen.toNat = some g) :
    exec .polyMul s = .next (completedWith 0x400 (convolve b (1#8 :: g) (s.dlen.toNat + s.elen.toNat)) s) := by
  refine exec_of_result h rfl ?_
  have hbuf : bufOperand s = some b := hb
  have hgen : genOperand s = some g := hg
  rw [polyMulResult, hbuf, hgen]
  split
  · next h0 =>
    have h0 : s.dlen.toNat = 0 := h0
    obtain rfl := List.length_eq_zero_iff.1 ((Memory.length_of_readBytes hb).trans h0)
    rw [convolve_nil, h0, Nat.zero_add]
    rfl
  · rfl

theorem exec_polyMul_of_dlen_zero {s : State} (h : Pending .polyMul s) (hd : s.dlen.toNat = 0) :
    exec .polyMul s = .next (completedWith 0x400 (List.replicate s.elen.toNat 0#8) s) :=
  exec_of_result h rfl (if_pos hd)

theorem exec_syndrome {s : State} {b : List Byte} (h : Pending .syndrome s)
    (hb : s.mem.readBytes 0x400 s.dlen.toNat = some b) :
    exec .syndrome s = .next (completedWith 0xC00 ((List.range s.elen.toNat).map fun j => evalAt (expAt j) b) s) := by
  refine exec_of_result h rfl ?_
  have hbuf : bufOperand s = some b := hb
  rw [syndromeResult, hbuf]
  rfl

end Sys2Proof.Proofs
end

section
/-! ### The rules of NOP and the polynomial commands (41_rs_poly.md R143 to R149, R152) -/

namespace Sys2Proof.Proofs
open Sys2Proof Sys2Proof.Machine Sys2Proof.Claims

/-- Settles O11: `effectOf_read`, whose destinations are the map's offsets. -/
theorem commandWritesExactlyItsDestination : Obligations.CommandWritesExactlyItsDestination := by
  refine ⟨fun s i h => ⟨_, exec_of_pending h, fun k hk => ?_, fun a ha => ?_⟩, fun s => ⟨rfl, ?_, rfl, ?_⟩⟩
  · rcases effectOf_read (i := i) (s := s) (a := (destination i s).1 + 4 * k) with ⟨-, h⟩ | ⟨hout, -⟩
    · exact h
    · exact absurd ⟨k, hk, rfl⟩ hout
  · rcases effectOf_read (i := i) (s := s) (a := a) with ⟨⟨k, hk, hin⟩, -⟩ | ⟨-, h⟩
    · exact absurd hin (ha k hk)
    · exact h
  · simp [destination, remBase]
  · simp [destination]

/-- Settles O17: NOP has no check and no effect; its run from reset is two steps of the model. -/
theorem nopFollowsItsRule : Obligations.NopFollowsItsRule :=
  ⟨rfl, fun _ h => exec_accepted h rfl, fun _ h => exec_of_pending h, ⟨_, rfl⟩, rfl, rfl⟩

/-- Settles O18: the round of the rule is a product, and every generator is monic. -/
theorem genPolyFollowsItsRule : Obligations.GenPolyFollowsItsRule := by
  refine ⟨rfl, fun s h he => exec_badElen (by decide) h he, fun s h he => exec_accepted h ((check_eq_none _ _).2 he),
    fun s h _ => ⟨_, _, genCoeffs_eq_cons _, length_tail_genCoeffs _, exec_genPoly h, storedAt_writeBytes _ _ _⟩,
    rfl, genCoeffs_succ, by decide, by decide⟩

/-- Settles O19: each row is the generator of its degree, which GEN_POLY writes. -/
theorem generatorsAreTheTabulatedOnes : Obligations.GeneratorsAreTheTabulatedOnes := by
  refine ⟨by decide, fun row hrow => ⟨generatorTable_logs row hrow, fun s h he => ?_⟩⟩
  refine ⟨_, exec_genPoly h, ?_⟩
  rw [he, ← tail_genCoeffs_of_mem hrow]
  exact storedAt_writeBytes _ _ _

/-- Settles O21: the division has a result, and with zero data it reads no divisor. -/
theorem rsEncodeFollowsItsRule : Obligations.RsEncodeFollowsItsRule := by
  refine ⟨rfl, fun s h he => exec_badElen (by decide) h he, fun s h he hd => exec_badLen (by decide) h he hd,
    fun s h he hd => exec_accepted h ((check_eq_none _ _).2 ⟨he.1, he.2, hd⟩), fun s b g h _ hb hg => ?_,
    fun s h _ hb => ⟨_, exec_rsEncode h hb ?_, storedAt_writeBytes _ _ _⟩, by decide +kernel⟩
  · obtain ⟨q, r, -, hqr, hexec⟩ := exec_rsEncode_remainder h hb hg
    exact ⟨q, r, _, hqr, hexec, storedAt_writeBytes _ _ _⟩
  · rw [List.replicate_append_replicate, sdiv_zeros]

/-- Settles O22: with D ≥ E a division of the data, and with D ≤ E no round at all. -/
theorem polyModFollowsItsRule : Obligations.PolyModFollowsItsRule := by
  refine ⟨rfl, fun s h he => exec_badElen (by decide) h he, fun s h he hd => exec_badLen (by decide) h he hd,
    fun s h he hd => exec_accepted h ((check_eq_none _ _).2 ⟨he.1, he.2, hd⟩), fun s b g h _ hle hb hg => ?_,
    fun s b h _ hle hb => ⟨_, exec_polyMod h hb ?_, storedAt_writeBytes _ _ _⟩,
    fun s b h _ hle hb hg => ⟨_, exec_polyMod_of_ge h hle hb ?_, storedAt_writeBytes _ _ _⟩, by decide⟩
  · have hlb := Memory.length_of_readBytes hb
    have hlg := Memory.length_of_readBytes hg
    obtain ⟨q, r, hr, hqr⟩ := sdiv_isDivision g b (s.dlen.toNat - s.elen.toNat) (by omega)
    exact ⟨q, r, _, hqr, exec_polyMod_of_ge h hle hb (hg ▸ hr), storedAt_writeBytes _ _ _⟩
  · rw [Nat.max_eq_right hle, Nat.sub_self, sdiv]
  · rw [hg, sdiv_zero_divisor]

/-- Settles O23: the product is summed as the rule sums it, and its leading coefficient is that of the data. -/
theorem polyMulFollowsItsRule : Obligations.PolyMulFollowsItsRule := by
  refine ⟨rfl, fun s h he => exec_badElen (by decide) h he,
    fun s h he hd => exec_rejected h (check_polyMul_eq_badLen he hd) (by decide),
    fun s h he hd => exec_accepted h ((check_eq_none _ _).2 ⟨he.1, he.2, hd⟩), fun s b g h he hb hg => ?_,
    fun s h _ hd => ⟨_, exec_polyMul_of_dlen_zero h hd, storedAt_writeBytes _ _ _⟩, by decide⟩
  have hlb := Memory.length_of_readBytes hb
  have hlg := Memory.length_of_readBytes hg
  refine ⟨_, _, length_convolve _ _ _, fun j hj => ?_, exec_polyMul h hb hg, storedAt_writeBytes _ _ _, fun hd => ?_⟩
  · rw [List.getD_eq_getElem _ _ hj, getElem_convolve, convAt_eq_foldr, List.foldr_filter]
    simp [hlb, hlg]
  · obtain ⟨c, b, rfl⟩ := List.exists_cons_of_length_pos (hlb ▸ hd)
    obtain ⟨n, hn⟩ := Nat.exists_eq_add_one_of_ne_zero (show s.dlen.toNat + s.elen.toNat ≠ 0 by omega)
    have hold : s.mem.read 0x400 = some c := (Memory.readBytes_eq_some.1 hb).2 0 (Nat.succ_pos _)
    rw [hold, hn, convolve_cons]
    exact Memory.read_writeBytes_at (bs := c :: _) (k := 0) (Nat.succ_pos _)

/-- Settles O24: each syndrome is a value at a power of α. -/
theorem syndromeFollowsItsRule : Obligations.SyndromeFollowsItsRule := by
  refine ⟨rfl, fun s h he => exec_badElen (by decide) h he, fun s h he hd => exec_badLen (by decide) h he hd,
    fun s h he hd => exec_accepted h ((check_eq_none _ _).2 ⟨he.1, he.2, hd⟩), fun s b h he hb => ?_, by decide +kernel⟩
  refine ⟨_, _, by simp, fun j hj => ?_, exec_syndrome h hb, storedAt_writeBytes _ _ _⟩
  obtain ⟨-, he⟩ := he
  have hjE : j < s.elen.toNat := by simpa using hj
  rw [List.getD_eq_getElem _ _ hj, List.getElem_map, List.getElem_range, expAt_eq_alphaPow (by omega), evalAt_eq_foldr,
    Memory.length_of_readBytes hb]

end Sys2Proof.Proofs
end

section
/-! ### Properties of the commands (41_rs_poly.md R150) -/

namespace Sys2Proof.Proofs
open Sys2Proof Sys2Proof.Machine Sys2Proof.Claims

theorem readBytes_append {m : Memory} {base n k : Nat} {b r : List Byte} (hb : m.readBytes base n = some b)
    (hr : m.readBytes (base + 4 * n) k = some r) : m.readBytes base (n + k) = some (b ++ r) := by
  obtain ⟨hlb, hb⟩ := Memory.readBytes_eq_some.1 hb
  obtain ⟨hlr, hr⟩ := Memory.readBytes_eq_some.1 hr
  refine Memory.readBytes_eq_some.2 ⟨by simp [hlb, hlr], fun i hi => ?_⟩
  rcases Nat.lt_or_ge i b.length with h | h
  · rw [hb i h, List.getElem_append_left h]
  · have hir : i - b.length < r.length := by rw [List.length_append] at hi; omega
    rw [List.getElem_append_right h, ← hr _ hir]
    congr 1
    omega

/-- A range read sees what another memory holds at the offsets it is copied from. -/
theorem readBytes_of_read_eq {m m' : Memory} {base base' n : Nat} {b : List Byte} (hb : m.readBytes base n = some b)
    (h : ∀ k, k < n → m'.read (base' + 4 * k) = m.read (base + 4 * k)) : m'.readBytes base' n = some b := by
  obtain ⟨hlb, hb⟩ := Memory.readBytes_eq_some.1 hb
  exact Memory.readBytes_eq_some.2 ⟨hlb, fun k hk => (h k (hlb ▸ hk)).trans (hb k hk)⟩

/-- POLY_MOD of a dividend of n + E bytes that the divisor divides writes zeros (41_rs_poly.md R147). -/
theorem exec_polyMod_zeros {u : State} {w g : List Byte} {n : Nat} (h : Pending .polyMod u)
    (hd : u.dlen.toNat = n + u.elen.toNat) (hw : u.mem.readBytes 0x400 (n + u.elen.toNat) = some w)
    (hg : u.mem.readBytes 0x804 u.elen.toNat = some g) (hz : sdiv (some g) n w = some (List.replicate g.length 0#8)) :
    ∃ v, exec .polyMod u = .next v ∧ ∀ j, j < u.elen.toNat → v.mem.read (0xC00 + 4 * j) = some 0x00#8 := by
  have hlg := Memory.length_of_readBytes hg
  refine ⟨_, exec_polyMod_of_ge h (by omega) (hd ▸ hw) (r := List.replicate g.length 0#8) ?_, fun j hj => ?_⟩
  · rw [hg, hd, Nat.add_sub_cancel, hz]
  · have hj : j < (List.replicate g.length 0#8).length := by simpa [hlg] using hj
    exact (Memory.read_writeBytes_at hj).trans (by simp)

/-- Settles O25: the block is the data followed by the remainder of the shifted data. -/
theorem encodedBlockIsDivisible : Obligations.EncodedBlockIsDivisible := by
  intro s t u b g hps hE hsum hb hg ht hpu helen hdlen hdata hecc hgen
  obtain ⟨-, hE⟩ := hE
  have hlb := Memory.length_of_readBytes hb
  have hlg := Memory.length_of_readBytes hg
  obtain ⟨q, r, hr, ⟨-, hlr, -⟩, hexec⟩ := exec_rsEncode_remainder hps hb hg
  obtain rfl := Host.Outcome.next.inj (hexec.symm.trans ht)
  have hub : u.mem.readBytes 0x400 s.dlen.toNat = some b :=
    readBytes_of_read_eq hb fun k hk => (hdata k hk).trans (Memory.read_writeBytes_other fun j _ => by omega)
  have hur : u.mem.readBytes (0x400 + 4 * s.dlen.toNat) s.elen.toNat = some r := by
    refine readBytes_of_read_eq (hlr.trans hlg ▸ Memory.readBytes_writeBytes s.mem 0xC00 r) fun k hk => ?_
    rw [Nat.add_assoc, ← Nat.mul_add]
    exact hecc k hk
  have hug : u.mem.readBytes 0x804 u.elen.toNat = some g := by
    rw [helen]
    refine readBytes_of_read_eq hg fun k hk => ?_
    rw [show 0x804 + 4 * k = 0x800 + 4 * (k + 1) by omega, hgen (k + 1) (by omega) (by omega)]
    exact Memory.read_writeBytes_other fun j _ => by omega
  refine exec_polyMod_zeros hpu (n := s.dlen.toNat) (w := b ++ r) (by rw [hdlen, helen]) ?_ hug ?_
  · rw [helen]
    exact readBytes_append hub hur
  · rw [← hlg, ← hlb] at hr
    rw [← hlb, sdiv_append_remainder hr]

/-- Settles O26: both commands run the same division. -/
theorem encodingIsTheRemainderOfTheShiftedData : Obligations.EncodingIsTheRemainderOfTheShiftedData := by
  intro s t u v b g hps _ _ hb hg hpu helen hdlen hub hug ht hv j hj
  obtain ⟨q, r, hr, ⟨-, hlr, -⟩, hexec⟩ := exec_rsEncode_remainder hps hb hg
  have hur : sdiv (u.mem.readBytes 0x804 u.elen.toNat) (u.dlen.toNat - u.elen.toNat)
      (b ++ List.replicate s.elen.toNat 0#8) = some r := by rw [hug, hdlen, helen, Nat.add_sub_cancel, hr]
  have hle : u.elen.toNat ≤ u.dlen.toNat := by rw [hdlen, helen]; omega
  obtain rfl := Host.Outcome.next.inj (hexec.symm.trans ht)
  obtain rfl := Host.Outcome.next.inj ((exec_polyMod_of_ge hpu hle hub hur).symm.trans hv)
  have hj : j < r.length := by rwa [hlr, Memory.length_of_readBytes hg]
  exact (Memory.read_writeBytes_at hj).trans (Memory.read_writeBytes_at hj).symm

/-- Settles O27: the dividend is the product. -/
theorem productIsDivisible : Obligations.ProductIsDivisible := by
  intro s t u b g hps hE hsum hb hg ht hpu helen hdlen hmem
  obtain ⟨-, hE⟩ := hE
  have hlb := Memory.length_of_readBytes hb
  have hlg := Memory.length_of_readBytes hg
  obtain rfl := Host.Outcome.next.inj ((exec_polyMul hps hb hg).symm.trans ht)
  refine exec_polyMod_zeros hpu (n := b.length) (g := g) (by rw [hdlen, helen, hlb]) ?_ ?_ (sdiv_convolve b g)
  · rw [hmem, helen, hlb, hlg]
    have h := Memory.readBytes_writeBytes s.mem 0x400 (convolve b (1#8 :: g) (s.dlen.toNat + s.elen.toNat))
    rwa [length_convolve] at h
  · rw [hmem, helen]
    exact Memory.readBytes_writeBytes_other (fun k j _ hj => by rw [length_convolve] at hj; omega) hg

/-- Settles O28: the multiple vanishes where the generator does. -/
theorem multipleOfGeneratorHasZeroSyndromes : Obligations.MultipleOfGeneratorHasZeroSyndromes := by
  intro s q e hp _ hle he _ hb
  refine ⟨_, exec_syndrome hp hb, fun j hj => ?_⟩
  refine (Memory.read_writeBytes_at (by simpa using hj)).trans ?_
  rw [List.getElem_map, List.getElem_range, expAt_eq_alphaPow (by omega), evalAt_multiple (by omega) (by omega)]

/-- A scalar command's RESULT depends on its operands alone. -/
theorem effectOf_result_congr {i : Instr} {s s' : State} (hi : i ∈ [Instr.gfMul, .gfExp, .gfLog, .gfInv])
    (ha : s'.argA = s.argA) (hb : i = .gfMul → s'.argB = s.argB) (hz : i ∈ [Instr.gfLog, .gfInv] → s.argA ≠ 0#8) :
    (effectOf i s').result = (effectOf i s).result := by
  cases i with
  | gfMul => simp [effectOf, ha, hb rfl]
  | gfExp => simp [effectOf, ha]
  | gfLog =>
    obtain ⟨l, hl, -⟩ := logAt_of_ne_zero (hz (by decide))
    simp [effectOf, ha, hl]
  | gfInv =>
    obtain ⟨b, -, -, -, hinv, -⟩ := gfInv_of_ne_zero (hz (by decide))
    simp [effectOf, ha, hinv]
  | nop | genPoly | rsEncode | polyMod | polyMul | syndrome => exact absurd hi (by decide)

/-- Two completions that write the same bytes leave the same destination. -/
theorem read_eq_of_completedWith {i : Instr} {s s' t t' : State} {base k : Nat} {bs : List Byte} (hk : k < bs.length)
    (hs : exec i s = .next (completedWith base bs s)) (hs' : exec i s' = .next (completedWith base bs s'))
    (ht : exec i s = .next t) (ht' : exec i s' = .next t') :
    t'.mem.read (base + 4 * k) = t.mem.read (base + 4 * k) := by
  obtain rfl := Host.Outcome.next.inj (hs.symm.trans ht)
  obtain rfl := Host.Outcome.next.inj (hs'.symm.trans ht')
  exact (Memory.read_writeBytes_at hk).trans (Memory.read_writeBytes_at hk).symm

/-- Settles O29: RESULT by `effectOf_result_congr`; the bytes of each command, computed from its operands. -/
theorem commandIsAFunctionOfItsOperands : Obligations.CommandIsAFunctionOfItsOperands := by
  intro i s s' t t' hp hp' ha hb hz he hd hg ht ht'
  refine ⟨fun hi => ?_, fun k hk => ?_⟩
  · obtain rfl := Host.Outcome.next.inj ((exec_of_pending hp).symm.trans ht)
    obtain rfl := Host.Outcome.next.inj ((exec_of_pending hp').symm.trans ht')
    exact effectOf_result_congr hi (ha hi) hb hz
  · cases i with
    | nop | gfMul | gfExp | gfLog | gfInv => exact absurd hk (Nat.not_lt_zero k)
    | genPoly =>
      have he := he (by decide)
      exact read_eq_of_completedWith (by simpa [destination] using hk) (exec_genPoly hp) (he ▸ exec_genPoly hp') ht ht'
    | rsEncode =>
      have he := he (by decide)
      obtain ⟨hd, b, hbs, hbs'⟩ := hd (by decide)
      obtain ⟨g, hgs, hgs'⟩ := hg (by decide)
      obtain ⟨q, r, hr, ⟨-, hlr, -⟩, hexec⟩ := exec_rsEncode_remainder hp hbs hgs
      have hexec' := exec_rsEncode (b := b) (r := r) hp' (by rw [hd, hbs']) (by rw [he, hd, hgs', hr])
      exact read_eq_of_completedWith (by rwa [hlr, Memory.length_of_readBytes hgs]) hexec hexec' ht ht'
    | polyMod =>
      have he := he (by decide)
      obtain ⟨hd, b, hbs, hbs'⟩ := hd (by decide)
      obtain ⟨g, hgs, hgs'⟩ := hg (by decide)
      have hlb := Memory.length_of_readBytes hbs
      have hlg := Memory.length_of_readBytes hgs
      obtain ⟨q, r, hr, -, hlr, -⟩ := sdiv_isDivision g
        (List.replicate (max s.dlen.toNat s.elen.toNat - s.dlen.toNat) 0#8 ++ b)
        (max s.dlen.toNat s.elen.toNat - s.elen.toNat) (by simp [hlb, hlg])
      have hexec := exec_polyMod hp hbs (hgs ▸ hr)
      have hexec' := exec_polyMod (b := b) (r := r) hp' (by rw [hd, hbs']) (by rw [he, hd, hgs', hr])
      exact read_eq_of_completedWith (by rwa [hlr, hlg]) hexec hexec' ht ht'
    | polyMul =>
      have he := he (by decide)
      obtain ⟨hd, b, hbs, hbs'⟩ := hd (by decide)
      obtain ⟨g, hgs, hgs'⟩ := hg (by decide)
      have hexec' := exec_polyMul (b := b) (g := g) hp' (by rw [hd, hbs']) (by rw [he, hgs'])
      rw [he, hd] at hexec'
      exact read_eq_of_completedWith (by rwa [length_convolve]) (exec_polyMul hp hbs hgs) hexec' ht ht'
    | syndrome =>
      have he := he (by decide)
      obtain ⟨hd, b, hbs, hbs'⟩ := hd (by decide)
      have hexec' := exec_syndrome (b := b) hp' (by rw [hd, hbs'])
      rw [he] at hexec'
      exact read_eq_of_completedWith (by simpa [destination] using hk) (exec_syndrome hp hbs) hexec' ht ht'

end Sys2Proof.Proofs
end

section
/-! ### The issue rule

The checks of 60_exceptions.md R183, written from the raw word, are the model's: a word that is no command fails their
first line, and on a command's word the remaining lines are that command's own checks. -/

namespace Sys2Proof.Proofs
open Sys2Proof Sys2Proof.Machine Sys2Proof.Claims

/-- A command's word has its opcode in the low four bits and nothing above. -/
theorem encode_toNat (i : Instr) : (encode i).toNat = (opcode i).toNat := by cases i <;> rfl

/-- The checks from the raw word of a command are the checks of the command. -/
theorem checkRule_encode (i : Instr) (s : State) : checkRule (encode i) s = (check i s).code := by
  rw [checkRule, encode_toNat]
  cases i with
  | nop | gfMul | gfExp => rfl
  | gfLog | gfInv => by_cases ha : s.argA = 0#8 <;> simp [opcode, check, ErrCode.code, ha]
  | genPoly =>
    by_cases he : s.elen.toNat = 0 ∨ 30 < s.elen.toNat <;> simp [opcode, check, ErrCode.code, Config.eMax, he]
  | rsEncode | polyMod | syndrome =>
    by_cases he : s.elen.toNat = 0 ∨ 30 < s.elen.toNat <;> by_cases hd : 256 < s.dlen.toNat <;>
      simp [opcode, check, ErrCode.code, Config.eMax, Config.bufSize, he, hd]
  | polyMul =>
    by_cases he : s.elen.toNat = 0 ∨ 30 < s.elen.toNat <;> by_cases hd : 256 < s.dlen.toNat + s.elen.toNat <;>
      simp [opcode, check, ErrCode.code, Config.eMax, Config.bufSize, he, hd]

theorem issueRule_of_busy {cw : Word} {s : State} (hb : s.status.busy = true) : issueRule cw s = flagged s :=
  if_pos hb

theorem issueRule_rejected {cw : Word} {s : State} (hb : s.status.busy = false) (hc : checkRule cw s ≠ 0#4) :
    issueRule cw s = rejectedAs cw (checkRule cw s) s := by
  simp [issueRule, hb, hc]

theorem issueRule_accepted {cw : Word} {s : State} (hb : s.status.busy = false) (hc : checkRule cw s = 0#4) :
    issueRule cw s = acceptedAs cw (BitVec.ofNat 4 (cw.toNat % 16)) s := by
  simp [issueRule, hb, hc]

theorem issueRule_of_illegal {cw : Word} {s : State} (hb : s.status.busy = false)
    (h : cw.toNat / 16 ≠ 0 ∨ 0xA ≤ cw.toNat % 16) : issueRule cw s = rejectedAs cw 1#4 s := by
  have hc : checkRule cw s = 1#4 := if_pos h
  rw [issueRule_rejected hb (by rw [hc]; decide), hc]

/-- The issue of a command with the engine free follows the rule. -/
theorem exec_idle_issueRule {i : Instr} {s : State} (h : Idle s) : exec i s = .next (issueRule (encode i) s) := by
  have hb : s.status.busy = false := h.1
  have hcode := checkRule_encode i s
  by_cases hc : check i s = .none
  · have hop : BitVec.ofNat 4 ((encode i).toNat % 16) = opcode i := by
      rw [← opField_toNat, opField_encode, BitVec.ofNat_toNat, BitVec.setWidth_eq]
    rw [exec_accepted h hc, issueRule_accepted hb (by rw [hcode, hc]; rfl), hop]
  · obtain ⟨hne, -⟩ := code_of_ne_none hc
    rw [exec_rejected h rfl hc, issueRule_rejected hb (hcode ▸ hne), hcode]

/-- Settles O8: the write is blocked, or its word fails the first check, or it is a command's issue. -/
theorem cmdWriteFollowsTheIssueRule : Obligations.CmdWriteFollowsTheIssueRule := by
  intro s cw h hbp
  cases hb : s.status.busy with
  | true => rw [step_of_write_blocked h hb (.inr rfl), issueRule_of_busy (s := served s) hb]
  | false =>
    have hidle : Idle (served s) := ⟨hb, hbp.symm.trans hb⟩
    by_cases hcw : cw.toNat / 16 ≠ 0 ∨ 0xA ≤ cw.toNat % 16
    · rw [illegalWordIsRejected.1 s cw h hidle hcw, issueRule_of_illegal (s := served s) hb hcw]
    · obtain ⟨i, hd⟩ := decode_command (cw := cw) (by omega) (by omega)
      obtain rfl := encode_of_decode hd
      rw [cmdWriteRunsTheDecodedCommand s _ i h hb hd, exec_idle_issueRule hidle]

end Sys2Proof.Proofs
end

section
/-! ### The engine's move -/

namespace Sys2Proof.Proofs
open Sys2Proof Sys2Proof.Machine Sys2Proof.Claims

/-- Settles O6: the engine's slot hands the pending command to `exec`, and passes with nothing pending. -/
theorem engineMoveRunsThePendingCommand : Obligations.EngineMoveRunsThePendingCommand := by
  refine ⟨fun s i h hv hop => ?_, fun s h hv => ?_⟩
  · rw [step_of_engineNext h]
    exact engineStep_pending hv hop
  · rw [step_of_engineNext h]
    exact engineStep_free hv

/-- The engine's move with a command pending is its completion. -/
theorem step_of_pending {s : State} {i : Instr} (h : EngineNext s) (hp : Pending i s) :
    step s = .next (finish (effectOf i (takeInput s))) := by
  obtain ⟨-, hv, hop⟩ := hp
  rw [engineMoveRunsThePendingCommand.1 s i h hv hop]
  exact exec_pending i hv

/-- Settles O10: `finish` makes the status writes, and the effect before it leaves the other registers. -/
theorem completionMakesItsStatusWrites : Obligations.CompletionMakesItsStatusWrites := by
  intro s i h hp
  obtain ⟨hie, hstatus, hcmd, ha, hb, hd, he, hpend, -⟩ := effectOf_frame i (takeInput s)
  exact ⟨_, step_of_pending h hp, by simp [hpend], by simp [hstatus], hie, hcmd, ha, hb, hd, he⟩

end Sys2Proof.Proofs
end

section
/-! ### A pending command and its operands are held -/

namespace Sys2Proof.Proofs
open Sys2Proof Sys2Proof.Machine Sys2Proof.Claims

/-- `t` has the engine, the operand registers, the RAMs, CMD_LAST and RESULT of `s`. -/
def HoldsEngine (s t : State) : Prop :=
  t.pend = s.pend ∧ t.status.busy = s.status.busy ∧ t.argA = s.argA ∧ t.argB = s.argB ∧ t.dlen = s.dlen ∧
    t.elen = s.elen ∧ t.mem = s.mem ∧ t.cmdLast = s.cmdLast ∧ t.result = s.result

/-- What a host transaction may change while a command is pending: IE, STATUS but BUSY, and `rdata` and `fresh`. -/
theorem holdsEngine_update (s : State) (ie done err accerr : Bool) (ecode : BitVec 4) (r : Option Word) (n : Nat) :
    HoldsEngine s { s with
      ctrlIE := ie
      status := { busy := s.status.busy, done := done, err := err, accerr := accerr, ecode := ecode }
      rdata := r
      fresh := n } := ⟨rfl, rfl, rfl, rfl, rfl, rfl, rfl, rfl, rfl⟩

theorem hostRead_holdsEngine (l : Loc) (s : State) : HoldsEngine s (hostRead l s) := by
  obtain ⟨r, n, e, h⟩ := hostRead_frame l s
  rw [h]
  exact holdsEngine_update ..

/-- The writes that stay open while a command executes hold the engine, but for a soft reset. -/
theorem writeLoc_holdsEngine {l : Loc} {v : Word} (hl : blocked l = false) (hr : ¬(l = .ctrl ∧ v.getLsbD 1 = true))
    (s : State) : HoldsEngine s (writeLoc l v s) := by
  cases l with
  | ctrl =>
    have hw : writeLoc .ctrl v s = { s with ctrlIE := v.getLsbD 0 } := if_neg fun hv => hr ⟨rfl, hv⟩
    rw [hw]
    exact holdsEngine_update ..
  | id | status | cmd | unmapped _ => exact holdsEngine_update ..
  | argA | argB | result | dlen | elen | buf _ | gen _ | rem _ => cases hl

/-- While BUSY = 1 every host write but a soft reset holds the engine: what is blocked only sets ACCERR. -/
theorem hostWrite_holdsEngine {l : Loc} {v : Word} {s t : State} (hb : s.status.busy = true)
    (hr : ¬(l = .ctrl ∧ v.getLsbD 1 = true)) (h : hostWrite exec l v s = .next t) : HoldsEngine s t := by
  rcases hostWrite_cases h with ⟨-, -, rfl⟩ | ⟨hn, -⟩ | ⟨hn, -⟩ | ⟨-, hbl, rfl⟩
  · exact holdsEngine_update ..
  · rw [hb] at hn; cases hn
  · rw [hb] at hn; cases hn
  · have hl : blocked l = false := Bool.eq_false_iff.2 fun hl => by rw [hbl hl] at hb; cases hb
    exact writeLoc_holdsEngine hl hr s

/-- Settles O9: a read and a write each hold the engine, and only offset 0x004 names CTRL. -/
theorem pendingCommandAndOperandsAreHeld : Obligations.PendingCommandAndOperandsAreHeld := by
  intro s t x hi hv hx hreset hs
  have hb : s.status.busy = true := hi.busyPend.trans hv
  have hheld : HoldsEngine s t := by
    cases x with
    | read off n =>
      obtain ⟨-, -, rfl⟩ := read_of_step hx hs
      exact hostRead_holdsEngine _ (takeInput s)
    | write off n v =>
      obtain ⟨-, hw, h⟩ := write_of_step hx hs
      obtain ⟨hoff, -⟩ := offsetOf_locOf hw
      refine hostWrite_holdsEngine (s := takeInput s) hb (fun ⟨hl, hbit⟩ => ?_) h
      obtain rfl : 0x004 = off := by rw [hl] at hoff; exact hoff
      exact Bool.eq_false_iff.1 hreset hbit
  obtain ⟨hpend, hbusy, hrest⟩ := hheld
  exact ⟨hpend, hbusy.trans hb, hrest⟩

end Sys2Proof.Proofs
end

section
/-! ### The interrupt output -/

namespace Sys2Proof.Proofs
open Sys2Proof Sys2Proof.Machine Sys2Proof.Claims

theorem irq_iff (s : State) : irq s = true ↔ s.ctrlIE = true ∧ (s.status.done = true ∨ s.status.err = true) := by
  simp [irq]

/-- An issue with the engine free leaves a cause of the interrupt exactly if it rejects its word. -/
theorem irq_issueRule {cw : Word} {s : State} (hb : s.status.busy = false) :
    irq (issueRule cw s) = true ↔ s.ctrlIE = true ∧ checkRule cw s ≠ 0#4 := by
  by_cases hc : checkRule cw s = 0#4
  · simp [issueRule_accepted hb hc, hc, irq, acceptedAs]
  · simp [issueRule_rejected hb hc, hc, irq, rejectedAs]

/-- Settles O50, a kind of step after the other, each by the rule for what it leaves. -/
theorem irqFollowsItsCauses : Obligations.IrqFollowsItsCauses := by
  obtain ⟨-, hctrl⟩ := ctrlRegisterReadsAndWritesIe
  refine ⟨irq_iff, fun s v h hdone herr => ?_, fun s cw h hidle => ?_, fun s i h hp => ?_,
    fun s v h hv => ⟨_, hctrl s v h hv, rfl⟩, fun s v h hv => ⟨_, step_of_ctrlReset h hv, rfl⟩⟩
  · refine ⟨_, step_of_write_open h (by decide) (by decide) rfl, ?_⟩
    have hw : writeLoc (locOf 0x008) v (takeInput s) = { takeInput s with status := s.status.clearBits v } := rfl
    simp [hw, irq, clearBits_eq, hdone, herr]
  · obtain ⟨hb, hv⟩ := hidle
    exact ⟨_, cmdWriteFollowsTheIssueRule s cw h (hb.trans hv.symm), irq_issueRule (s := served s) hb⟩
  · obtain ⟨hie, -⟩ := effectOf_frame i (takeInput s)
    exact ⟨_, step_of_pending h hp, by simp [irq, hie]⟩

end Sys2Proof.Proofs
end

section
/-! ### The resets -/

namespace Sys2Proof.Proofs
open Sys2Proof Sys2Proof.Machine Sys2Proof.Claims

/-- Settles O51: the registers and the empty RAMs are those of `hardReset`, and GEN[0] needs no written byte. -/
theorem hardwareResetFollowsItsRule : Obligations.HardwareResetFollowsItsRule := by
  intro s h
  obtain ⟨hgen, -⟩ := genZeroIsHardwired
  exact ⟨hardReset (takeInput s), step_of_rst h, rfl, (by decide : Status.clear.word = 0#32), rfl, rfl, rfl, rfl,
    rfl, rfl, rfl, rfl, Memory.read_nil, rfl, le_rfl, hgen _ rfl rfl⟩

/-- Abandoning a command touches the RAMs only. -/
theorem abandonPending_frame (s : State) : abandonPending s = { s with mem := (abandonPending s).mem } := by
  unfold abandonPending
  split
  · split <;> rfl
  · rfl

theorem abandonPending_of_free {s : State} (hv : s.pend.valid = false) : abandonPending s = s := by
  simp [abandonPending, hv]

theorem abandonPending_of_pending {i : Instr} {s : State} (hp : Pending i s) : abandonPending s = abandon i s := by
  obtain ⟨-, hv, hop⟩ := hp
  simp [abandonPending, hv, hop]

/-- An abandoned command's destination is unwritten, and every other byte is kept (70_reset_and_hazards.md R213). -/
theorem abandon_read (i : Instr) (s : State) (a : Nat) :
    (InDestination i s a → (abandon i s).mem.read a = none) ∧
    (¬InDestination i s a → (abandon i s).mem.read a = s.mem.read a) := by
  rw [abandon_mem, Memory.read_eraseBytes]
  exact ⟨fun h => if_pos h, fun h => if_neg h⟩

/-- The whole state after a soft reset: the registers of 10_state.md R44, and the RAMs as abandoning leaves them. -/
theorem softReset_eq (s : State) :
    softReset s = { s with
      ctrlIE := false
      status := Status.clear
      cmdLast := 0#32
      argA := 0#8
      argB := 0#8
      result := 0#8
      dlen := 0#9
      elen := 0#5
      pend := { s.pend with valid := false }
      mem := (abandonPending s).mem } := by
  rw [softReset, abandonPending_frame]

/-- Settles O52: a CTRL write with bit 1 set is `softReset`, with bit 1 clear it writes IE. -/
theorem softResetFollowsItsRule : Obligations.SoftResetFollowsItsRule := by
  intro s v h hv
  obtain ⟨-, hctrl⟩ := ctrlRegisterReadsAndWritesIe
  refine ⟨(abandonPending (takeInput s)).mem, ?_, fun hfree => ?_, fun i hp a => ?_, fun u hu => hctrl _ u rfl hu⟩
  · rw [step_of_ctrlReset h hv, softReset_eq]
    rfl
  · rw [abandonPending_of_free (by simpa using hfree), takeInput_mem]
  · rw [abandonPending_of_pending (s := takeInput s) hp]
    exact abandon_read i (takeInput s) a

end Sys2Proof.Proofs
end

section
/-! ### A pending command completes

While transactions without a reset come, the command stays pending and the inputs get fewer; the first engine slot, or
the end of the inputs, completes it. -/

namespace Sys2Proof.Proofs
open Sys2Proof Sys2Proof.Machine Sys2Proof.Claims

/-- Some run of at most `n` steps ends with the command completed. -/
def CompletesWithin (n : Nat) (s : State) : Prop :=
  ∃ (k : Nat) (t : State), k ≤ n ∧ Host.Core.run core k s = .next t ∧
    t.status.busy = false ∧ t.status.done = true ∧ t.pend.valid = false

theorem completesWithin_of_step {n : Nat} {s t : State} (hs : step s = .next t) (h : CompletesWithin n t) :
    CompletesWithin (n + 1) s := by
  obtain ⟨k, u, hk, hu, hdone⟩ := h
  exact ⟨k + 1, u, Nat.succ_le_succ hk, (run_succ hs).trans hu, hdone⟩

/-- The engine's move completes the pending command of a sound state. -/
theorem completesWithin_of_engineNext {s : State} (hi : SoundState s) (hv : s.pend.valid = true)
    (h : EngineNext s) (n : Nat) : CompletesWithin (n + 1) s := by
  obtain ⟨i, hp, -⟩ := pending_of_valid hi hv
  obtain ⟨t, hs, hpend, hstatus, -⟩ := completionMakesItsStatusWrites s i h hp
  exact completesWithin_of_step hs ⟨0, t, n.zero_le, rfl, by rw [hstatus], by rw [hstatus], by rw [hpend]⟩

/-- A sound state completes its pending command if no reset comes: a transaction keeps the command pending and takes one
input, an engine slot completes it. -/
theorem completesWithin_of_pending {s : State} (hi : SoundState s) (hv : s.pend.valid = true)
    (hw : inputsWf s = true) (hreset : ∀ x ∈ s.inputs, inputResets x = false) :
    CompletesWithin (s.inputs.length + 1) s := by
  induction hl : s.inputs generalizing s with
  | nil => exact completesWithin_of_engineNext hi hv (.inl hl) _
  | cons x rest ih =>
    have hx : Next x s := congrArg List.head? hl
    have hxr : inputResets x = false := hreset x (List.mem_of_mem_head? hx)
    cases x with
    | rst => cases hxr
    | engine => exact completesWithin_of_engineNext hi hv (.inr hx) _
    | host x =>
      obtain ⟨t, hs⟩ := step_of_wf_host hx (wf_of_next hw hx)
      obtain ⟨hpend, -⟩ := pendingCommandAndOperandsAreHeld s t x hi hv hx hxr hs
      have htail : t.inputs = s.inputs.tail := step_inputs hs
      exact completesWithin_of_step hs (ih (stepKeepsTheInvariant s t hi hs) (by rw [hpend, hv])
        (step_keeps_inputsWf hw hs) (fun y hy => hreset y (List.mem_of_mem_tail (htail ▸ hy)))
        (by rw [htail, hl, List.tail_cons]))

/-- Settles O58: `completesWithin_of_pending`, with `CompletesWithin` written out. -/
theorem pendingCommandCompletes : Obligations.PendingCommandCompletes :=
  fun _ hi hv hw hreset => completesWithin_of_pending hi hv hw hreset

end Sys2Proof.Proofs
end

section
/-! ### Canonical memories are extensional

In the canonical form an offset is listed at most once, so reads tell the entries; and a strictly rising list is
determined by its entries (10_state.md R43; log 22). -/

namespace Sys2Proof.Proofs
open Sys2Proof Sys2Proof.Machine Sys2Proof.Claims

/-- No later entry repeats an offset, so a read finds exactly the entry listed. -/
theorem read_eq_some_iff_mem {m : Memory} (h : m.wf) {a : Nat} {b : Byte} : m.read a = some b ↔ (a, b) ∈ m := by
  induction m with
  | nil => simp
  | cons c m ih =>
    obtain ⟨k, v⟩ := c
    obtain ⟨hlater, hm⟩ := List.pairwise_cons.mp h
    by_cases hka : k = a
    · subst hka
      have hnot : (k, b) ∉ m := fun hb => Nat.lt_irrefl k (hlater _ hb)
      simp [Memory.read, hnot, eq_comm]
    · simp [Memory.read, hka, Ne.symm hka, ih hm]

/-- Strictly rising lists with the same entries are equal. -/
theorem eq_of_wf_of_mem_iff {m m' : Memory} (h : m.wf) (h' : m'.wf) (hmem : ∀ c, c ∈ m ↔ c ∈ m') : m = m' :=
  have : Std.Asymm fun c d : Host.Cell => c.1 < d.1 := ⟨fun _ _ => Nat.lt_asymm⟩
  h.eq_of_mem_iff h' hmem

/-- Settles O59: equal reads are equal entries, and these determine a rising list. -/
theorem canonicalMemoriesWithEqualReadsAreEqual : Obligations.CanonicalMemoriesWithEqualReadsAreEqual :=
  fun _ _ h h' hread => eq_of_wf_of_mem_iff h h' fun _ =>
    (read_eq_some_iff_mem h).symm.trans (hread _ ▸ read_eq_some_iff_mem h')

end Sys2Proof.Proofs
end
